-- ==== Sys2Proof/Word.lean ====
section
/-! DEFINITION. The data words of the FXQ24 engine and the two shapes in which commands group them. -/

namespace Sys2Proof

/-- A 32-bit storage word (spec 00_scope.md R6, 10_state.md R21). -/
abbrev Word := BitVec 32

/-- One byte lane of the host port (20_memory.md R54). -/
abbrev Byte := BitVec 8

/-- The index of a general register `r0`-`r31` (10_state.md R20). -/
abbrev RegIdx := Fin 32

/-- The general registers as one value: the register file, or a snapshot of it (10_state.md R20, R29). -/
abbrev RegFile := Vector Word 32

/-- A Vector3 value `(X, Y, Z)` (10_state.md R22, 42_vector.md R130). -/
structure Vec3 where
  x : Word
  y : Word
  z : Word
  deriving DecidableEq, Repr

/-- A Quaternion value: real part `W` and imaginary vector `V` (10_state.md R22, 43_quaternion.md R150). -/
structure Quat where
  w : Word
  v : Vec3
  deriving DecidableEq, Repr

end Sys2Proof
end

