-- ==== Sys2Proof/Config.lean ====
section
/-! DEFINITION. What the spec fixes once for the hardware (00_scope.md R5), and its open parameters. -/

namespace Sys2Proof.Config

/-- `F`, the fractional bits of the Q7.24 format (R5). -/
def fractionBits : Nat := 24

/-- `2^F`, the scale of the format: word `N` represents `sint32(N) / 2^24` (R6). -/
def unit : Int := 2 ^ 24

/-- The largest base of a vector group (R5, 10_state.md R22). -/
def vectorBaseLimit : Nat := 29

/-- The largest base of a quaternion group (R5, 10_state.md R22). -/
def quaternionBaseLimit : Nat := 28

/-- The ID register's constant (10_state.md R28). -/
def idWord : Word := 0x01202018#32

/-- The host window's size in bytes (R5, 20_memory.md R50). -/
def windowSize : Nat := 256

/-- The open parameter `WINDOW_BASE` is a multiple of 256 (20_memory.md R50): this is that multiple.
It has no body that a proof can see. Log 12. -/
opaque windowPage : Nat

/-- `WINDOW_BASE` (R5, 20_memory.md R50). -/
def windowBase : Nat := windowSize * windowPage

/-- DESIGN CHOICE (unsafe, log 3): the word each general register holds after hardware reset. The spec leaves it
open as `R_INIT` (R5, 70_reset_and_hazards.md R200). -/
def resetRegister : Word := 0#32

/-- The free draws of 70_reset_and_hazards.md R204: the n-th host read of an unwritten register returns
`freeRead n`, any 32-bit word. It has no body that a proof can see. Log 4. -/
opaque freeRead : Nat → Word

end Sys2Proof.Config
end

