-- ==== Sys2Proof/Machine/Fixed.lean ====
section
/-! DEFINITION. The functions of the number format: narrowing and shifting (00_scope.md R9), the scalar functions
(41_scalar.md R100), the vector functions (42_vector.md R130) and the quaternion functions (43_quaternion.md R150). -/

namespace Sys2Proof.Machine

/-! ### R9: integers and words -/

/-- `sint32(w)`: the two's-complement value of a word (R9). -/
def sint32 (w : Word) : Int := w.toInt

/-- `wrap32(v)`: the word congruent to `v` modulo 2^32 (R9). -/
def wrap32 (v : Int) : Word := BitVec.ofInt 32 v

/-- `asr(v, n) = floor(v / 2^n)` (R9); `/` on `Int` rounds down for a positive divisor. -/
def asr (v : Int) (n : Nat) : Int := v / 2 ^ n

/-- `tdiv(n, d)`: the quotient truncated toward zero (R9), used only where `d ≠ 0`. -/
def tdiv (n d : Int) : Int := Int.tdiv n d

/-- `sext_N(v)`: sign extension of an `N`-bit field (R9; no command uses it). -/
def sext {N : Nat} (v : BitVec N) : Int := v.toInt

/-- `zext_N(v)`: zero extension of an `N`-bit field (R9; no command uses it). -/
def zext {N : Nat} (v : BitVec N) : Int := v.toNat

/-! ### R100: scalar functions -/

/-- `fadd(a, b) = wrap32(sint32(a) + sint32(b))` (R100). -/
def fadd (a b : Word) : Word := wrap32 (sint32 a + sint32 b)

/-- `fsub(a, b) = wrap32(sint32(a) - sint32(b))` (R100). -/
def fsub (a b : Word) : Word := wrap32 (sint32 a - sint32 b)

/-- `fneg(a) = wrap32(-sint32(a))` (R100). -/
def fneg (a : Word) : Word := wrap32 (-sint32 a)

/-- `fmul(a, b) = wrap32(asr(sint32(a) * sint32(b), 24))` (R100). -/
def fmul (a b : Word) : Word := wrap32 (asr (sint32 a * sint32 b) Config.fractionBits)

/-- `fdiv(a, b) = wrap32(tdiv(sint32(a) * 2^24, sint32(b)))` (R100), used only where `sint32(b) ≠ 0`. -/
def fdiv (a b : Word) : Word := wrap32 (tdiv (sint32 a * Config.unit) (sint32 b))

/-- FROMINT's function: `wrap32(sint32(x) * 2^24)` (R106). -/
def fromInt (x : Word) : Word := wrap32 (sint32 x * Config.unit)

/-- TOINTS's inner divisor `dsc = tdiv(2^24, s)`, used only where `s ≠ 0` (R107). -/
def scaleDivisor (s : Word) : Int := tdiv Config.unit (sint32 s)

/-- TOINTS's function: `wrap32(tdiv(n, dsc))`, used only where `dsc ≠ 0` (R107). -/
def toIntScaled (n s : Word) : Word := wrap32 (tdiv (sint32 n) (scaleDivisor s))

/-! ### R130: vector functions -/

/-- `vadd(u, v)` (R130). -/
def vadd (u v : Vec3) : Vec3 := ⟨fadd u.x v.x, fadd u.y v.y, fadd u.z v.z⟩

/-- `vscale(u, c)` (R130). -/
def vscale (u : Vec3) (c : Word) : Vec3 := ⟨fmul u.x c, fmul u.y c, fmul u.z c⟩

/-- `vdot(u, v)` (R130). -/
def vdot (u v : Vec3) : Word := fadd (fadd (fmul u.x v.x) (fmul u.y v.y)) (fmul u.z v.z)

/-- `vcross(u, v)` (R130). -/
def vcross (u v : Vec3) : Vec3 :=
  ⟨fsub (fmul u.y v.z) (fmul u.z v.y),
   fsub (fmul u.z v.x) (fmul u.x v.z),
   fsub (fmul u.x v.y) (fmul u.y v.x)⟩

/-! ### R150: quaternion functions -/

/-- The identity quaternion `(fromInt(1), 0)` (R152). -/
def qident : Quat := ⟨0x01000000#32, ⟨0#32, 0#32, 0#32⟩⟩

/-- `qmul(p, q)`, the Hamilton product (R150). -/
def qmul (p q : Quat) : Quat :=
  ⟨fsub (fmul p.w q.w) (vdot p.v q.v),
   vadd (vadd (vcross p.v q.v) (vscale q.v p.w)) (vscale p.v q.w)⟩

/-- `wrap32(2·sint32(c))` (R150). -/
def double (c : Word) : Word := wrap32 (2 * sint32 c)

/-- `t` of `qrot`: each component of `c` doubled and wrapped (R150). -/
def vdouble (c : Vec3) : Vec3 := ⟨double c.x, double c.y, double c.z⟩

/-- `qrot(q, v)`: `v + s + u` with `c = qv × v`, `t = 2c`, `s = t·w`, `u = qv × t`, rounded in this order (R150). -/
def qrot (q : Quat) (v : Vec3) : Vec3 :=
  let c := vcross q.v v
  let t := vdouble c
  let s := vscale t q.w
  let u := vcross q.v t
  vadd (vadd v s) u

end Sys2Proof.Machine
end

