-- ==== Sys2Proof/Syntax.lean ====
section
/-! DEFINITION. The commands of FXQ24 v1 (30_encoding.md R83), their operand kinds, and the command errors
(60_exceptions.md R171). -/

namespace Sys2Proof

/-- The fourteen opcodes of 30_encoding.md R83. -/
inductive Op where
  | add | sub | neg | mul | div | fromint | toints
  | vadd | vscale | vdot | vcross
  | qid | qmul | qrot
  deriving DecidableEq, Repr

/-- The kind of an operand field (30_encoding.md R81). -/
inductive Kind where
  /-- `r`: a scalar register -/
  | scalar
  /-- `v`: a vector group, named by its base -/
  | vector
  /-- `q`: a quaternion group, named by its base -/
  | quaternion
  /-- `-`: the field is not used and must be zero -/
  | unused
  deriving DecidableEq, Repr

/-- A command: one constructor per row of the opcode table, its operand fields in the order `d`, `a`, `b`. -/
inductive Instr where
  | add (d a b : RegIdx)
  | sub (d a b : RegIdx)
  | neg (d a : RegIdx)
  | mul (d a b : RegIdx)
  | div (d a b : RegIdx)
  | fromint (d a : RegIdx)
  | toints (d a b : RegIdx)
  | vadd (d a b : RegIdx)
  | vscale (d a b : RegIdx)
  | vdot (d a b : RegIdx)
  | vcross (d a b : RegIdx)
  | qid (d : RegIdx)
  | qmul (d a b : RegIdx)
  | qrot (d a b : RegIdx)
  deriving DecidableEq, Repr

/-- The error a failing command completes with (60_exceptions.md R171). -/
inductive CmdError where
  | illegalOpcode
  | reservedBits
  | groupRange
  | divZero
  | scaleZero
  deriving DecidableEq, Repr

namespace Instr

/-- The opcode of a command. -/
def op : Instr → Op
  | .add _ _ _ => .add
  | .sub _ _ _ => .sub
  | .neg _ _ => .neg
  | .mul _ _ _ => .mul
  | .div _ _ _ => .div
  | .fromint _ _ => .fromint
  | .toints _ _ _ => .toints
  | .vadd _ _ _ => .vadd
  | .vscale _ _ _ => .vscale
  | .vdot _ _ _ => .vdot
  | .vcross _ _ _ => .vcross
  | .qid _ => .qid
  | .qmul _ _ _ => .qmul
  | .qrot _ _ _ => .qrot

/-- The field `d`. -/
def fieldD : Instr → RegIdx
  | .add d _ _ | .sub d _ _ | .neg d _ | .mul d _ _ | .div d _ _ | .fromint d _ | .toints d _ _
  | .vadd d _ _ | .vscale d _ _ | .vdot d _ _ | .vcross d _ _
  | .qid d | .qmul d _ _ | .qrot d _ _ => d

/-- The field `a`, zero where the command does not use it (30_encoding.md R81). -/
def fieldA : Instr → RegIdx
  | .add _ a _ | .sub _ a _ | .neg _ a | .mul _ a _ | .div _ a _ | .fromint _ a | .toints _ a _
  | .vadd _ a _ | .vscale _ a _ | .vdot _ a _ | .vcross _ a _
  | .qmul _ a _ | .qrot _ a _ => a
  | .qid _ => 0

/-- The field `b`, zero where the command does not use it (30_encoding.md R81). -/
def fieldB : Instr → RegIdx
  | .add _ _ b | .sub _ _ b | .mul _ _ b | .div _ _ b | .toints _ _ b
  | .vadd _ _ b | .vscale _ _ b | .vdot _ _ b | .vcross _ _ b
  | .qmul _ _ b | .qrot _ _ b => b
  | .neg _ _ | .fromint _ _ | .qid _ => 0

end Instr

namespace Op

/-- The kind of the field `d` (30_encoding.md R83). -/
def kindD : Op → Kind
  | .add | .sub | .neg | .mul | .div | .fromint | .toints | .vdot => .scalar
  | .vadd | .vscale | .vcross | .qrot => .vector
  | .qid | .qmul => .quaternion

/-- The kind of the field `a` (30_encoding.md R83). -/
def kindA : Op → Kind
  | .add | .sub | .neg | .mul | .div | .fromint | .toints => .scalar
  | .vadd | .vscale | .vdot | .vcross => .vector
  | .qid => .unused
  | .qmul | .qrot => .quaternion

/-- The kind of the field `b` (30_encoding.md R83). -/
def kindB : Op → Kind
  | .add | .sub | .mul | .div | .toints | .vscale => .scalar
  | .vadd | .vdot | .vcross | .qrot => .vector
  | .neg | .fromint | .qid => .unused
  | .qmul => .quaternion

end Op

end Sys2Proof
end

