-- ==== Sys2Proof/WellFormed.lean ====
section
/-! DEFINITION. When a command's operand fields name registers that exist (30_encoding.md R81, R87). -/

namespace Sys2Proof

/-- A field of this kind is in its range: a vector base is at most 29, a quaternion base at most 28, a scalar
register any index (30_encoding.md R81, R84, R87). -/
def Kind.inRange : Kind → RegIdx → Bool
  | .scalar, _ => true
  | .vector, f => decide (f.val ≤ Config.vectorBaseLimit)
  | .quaternion, f => decide (f.val ≤ Config.quaternionBaseLimit)
  | .unused, _ => true

/-- Every group base of the command is in its range (30_encoding.md R84's third check). -/
def Instr.wellFormed (i : Instr) : Bool :=
  i.op.kindD.inRange i.fieldD && i.op.kindA.inRange i.fieldA && i.op.kindB.inRange i.fieldB

end Sys2Proof
end

