-- ==== Sys2Proof/Decode.lean ====
section
/-! DEFINITION. The decoder of 30_encoding.md R84, total on every 32-bit word, and the encoder of R80 and R83. -/

namespace Sys2Proof

/-! ### Fields of a command word (R80) -/

/-- `w[31:24]`. -/
def opcField (w : Word) : BitVec 8 := w.extractLsb' 24 8

/-- `w[23:19]`. -/
def dField (w : Word) : RegIdx := (w.extractLsb' 19 5).toFin

/-- `w[18:14]`. -/
def aField (w : Word) : RegIdx := (w.extractLsb' 14 5).toFin

/-- `w[13:9]`. -/
def bField (w : Word) : RegIdx := (w.extractLsb' 9 5).toFin

/-- `w[8:0]`, reserved. -/
def zField (w : Word) : BitVec 9 := w.extractLsb' 0 9

/-! ### The opcode map (R83) -/

/-- The opcode number of each command (R83). -/
def Op.code : Op → BitVec 8
  | .add => 0x01#8
  | .sub => 0x02#8
  | .neg => 0x03#8
  | .mul => 0x04#8
  | .div => 0x05#8
  | .fromint => 0x06#8
  | .toints => 0x07#8
  | .vadd => 0x10#8
  | .vscale => 0x11#8
  | .vdot => 0x12#8
  | .vcross => 0x13#8
  | .qid => 0x20#8
  | .qmul => 0x21#8
  | .qrot => 0x22#8

/-- The command an opcode number names; none for the 242 illegal ones (R83, R85). -/
def Op.ofCode? (o : BitVec 8) : Option Op :=
  match o.toNat with
  | 0x01 => some .add
  | 0x02 => some .sub
  | 0x03 => some .neg
  | 0x04 => some .mul
  | 0x05 => some .div
  | 0x06 => some .fromint
  | 0x07 => some .toints
  | 0x10 => some .vadd
  | 0x11 => some .vscale
  | 0x12 => some .vdot
  | 0x13 => some .vcross
  | 0x20 => some .qid
  | 0x21 => some .qmul
  | 0x22 => some .qrot
  | _ => none

/-- The command with this opcode and these field values; a field of kind `-` is dropped. -/
def Op.build (o : Op) (d a b : RegIdx) : Instr :=
  match o with
  | .add => .add d a b
  | .sub => .sub d a b
  | .neg => .neg d a
  | .mul => .mul d a b
  | .div => .div d a b
  | .fromint => .fromint d a
  | .toints => .toints d a b
  | .vadd => .vadd d a b
  | .vscale => .vscale d a b
  | .vdot => .vdot d a b
  | .vcross => .vcross d a b
  | .qid => .qid d
  | .qmul => .qmul d a b
  | .qrot => .qrot d a b

/-- A field of kind `-` that is not zero (R86). -/
def Kind.unusedNonzero (k : Kind) (f : RegIdx) : Bool := decide (k = .unused) && decide (f ≠ 0)

/-- The second check of R84: bits 8:0 or a field of kind `-` is not zero. -/
def reservedNonzero (o : Op) (w : Word) : Bool :=
  decide (zField w ≠ 0#9) || o.kindA.unusedNonzero (aField w) || o.kindB.unusedNonzero (bField w)

/-- R84 up to the command's own rule: the command a word names, or the first of the three decode errors that
applies (60_exceptions.md R175). -/
def decode (w : Word) : Except CmdError Instr :=
  match Op.ofCode? (opcField w) with
  | none => .error .illegalOpcode
  | some o =>
    if reservedNonzero o w then .error .reservedBits
    else
      let i := o.build (dField w) (aField w) (bField w)
      if i.wellFormed then .ok i else .error .groupRange

/-- The word of an opcode and its three fields: `opc·2^24 + d·2^19 + a·2^14 + b·2^9` (R80, R91). -/
def commandWord (opc : BitVec 8) (d a b : RegIdx) : Word :=
  opc ++ BitVec.ofFin (w := 5) d ++ BitVec.ofFin (w := 5) a ++ BitVec.ofFin (w := 5) b ++ 0#9

/-- The one word of a command (R80, R83): a field of kind `-` and bits 8:0 are zero (R86). -/
def encode (i : Instr) : Word := commandWord i.op.code i.fieldD i.fieldA i.fieldB

/-- The host's reading of the decoder: the command word is one 32-bit value with no byte order of its own
(20_memory.md R54), so the table's bits are the word's bits. -/
def decodeTableWord (nbits w : Nat) : Option Instr :=
  match decode (BitVec.ofNat 32 (w % 2 ^ nbits)) with
  | .ok i => some i
  | .error _ => none

end Sys2Proof
end

