-- ==== Sys2Proof/Machine/State.lean ====
section
/-! DEFINITION. The machine's state (10_state.md R34), the turns of its agents (00_scope.md R7), and its state after
hardware reset (70_reset_and_hazards.md R200). All of it is plain data. -/

namespace Sys2Proof.Machine

/-- What the in-flight slot holds: the command word `w` and the snapshot `S` of the registers taken at acceptance
(10_state.md R29). -/
structure Command where
  word : Word
  operands : RegFile
  deriving DecidableEq, Repr

/-- What a host transaction asks for (20_memory.md R52). -/
inductive Access where
  /-- a read -/
  | read
  /-- a write of `data` with a byte-lane mask -/
  | write (lanes : BitVec 4) (data : Word)
  deriving DecidableEq, Repr

/-- One host transaction on the window: byte offset `0 <= off <= 0xFF`, size in bytes, and the access
(20_memory.md R52). -/
structure Transaction where
  off : BitVec 8
  size : Nat
  access : Access
  deriving DecidableEq, Repr

/-- What the port answers a transaction (20_memory.md R52). -/
inductive Reply where
  /-- `Ok` with the word read -/
  | data (v : Word)
  /-- `Ok` of a write -/
  | ok
  /-- `BusError`: the transaction is refused and no state of the engine changes -/
  | busError
  deriving DecidableEq, Repr

/-- One turn of an agent (00_scope.md R7): each step takes the first turn of `State.turns`. -/
inductive Turn where
  /-- the host performs a transaction -/
  | host (t : Transaction)
  /-- the engine completes the command in flight, if there is one (10_state.md R30) -/
  | engine
  /-- the platform asserts the reset input (70_reset_and_hazards.md R200, R201) -/
  | hardReset
  deriving DecidableEq, Repr

/-- The state of the machine. The first ten fields are the engine's (10_state.md R34), `written` is R204's, and
`turns`, `reply` and `draws` are the model's own (logs 1, 4 and 10). -/
structure State where
  /-- `x[0]`-`x[31]` (R20) -/
  regs : RegFile
  /-- the in-flight slot (R29) -/
  inflight : Option Command
  /-- STATUS.BUSY (R25) -/
  busy : Bool
  /-- STATUS.DONE (R25) -/
  done : Bool
  /-- STATUS.ERR (R25) -/
  err : Bool
  /-- STATUS.OVR (R25) -/
  ovr : Bool
  /-- STATUS.ECODE (R25) -/
  ecode : BitVec 4
  /-- CTRL.IE_DONE (R26) -/
  ieDone : Bool
  /-- CTRL.IE_ERR (R26) -/
  ieErr : Bool
  /-- ERRCMD (R27) -/
  errcmd : Word
  /-- which registers a host write or a completion has written since hardware reset (70_reset_and_hazards.md R204) -/
  written : Vector Bool 32
  /-- the coming turns of host, engine and platform, the next one first -/
  turns : List Turn
  /-- the answer to the latest host transaction (20_memory.md R52) -/
  reply : Option Reply
  /-- how many free draws have been taken (R204) -/
  draws : Nat
  deriving DecidableEq, Repr

/-- Why the machine could stop with a fault: never. The engine has no traps (60_exceptions.md): a command error is a
next state (R177), and so is a refused bus transaction (R179). Log 17. -/
inductive Fault where
  deriving DecidableEq, Repr

/-- Why an instruction could have no meaning. -/
inductive Refusal where
  /-- raised by `exec` for an instruction that has no meaning yet, named by its mnemonic; safe. No arm raises it. -/
  | notModelled (mnemonic : String)
  deriving DecidableEq, Repr

/-- The state right after hardware reset (10_state.md R34, 70_reset_and_hazards.md R200). The register contents are
the model's (DESIGN CHOICE, log 3), and so are the values of the model's own fields (logs 1, 4, 10). -/
def State.reset : State where
  regs := Vector.replicate 32 Config.resetRegister
  inflight := none
  busy := false
  done := false
  err := false
  ovr := false
  ecode := 0#4
  ieDone := false
  ieErr := false
  errcmd := 0#32
  written := Vector.replicate 32 false
  turns := []
  reply := none
  draws := 0

end Sys2Proof.Machine
end

