-- ==== Sys2Proof/Machine/Flags.lean ====
section
/-! DEFINITION. The status bits: the engine has no arithmetic flags (10_state.md R32); what it has are the STATUS and
CTRL words (R25, R26), the error codes (60_exceptions.md R171) and the output `irq` (R33). -/

namespace Sys2Proof

/-- The code of an error (60_exceptions.md R171). -/
def CmdError.code : CmdError → BitVec 4
  | .illegalOpcode => 1#4
  | .reservedBits => 2#4
  | .groupRange => 3#4
  | .divZero => 4#4
  | .scaleZero => 5#4

namespace Machine

/-- The STATUS word `{20'b0, ECODE, 4'b0, OVR, ERR, DONE, BUSY}` (10_state.md R25, 20_memory.md R51). -/
def State.statusWord (s : State) : Word :=
  0#20 ++ s.ecode ++ 0#4 ++ BitVec.ofBool s.ovr ++ BitVec.ofBool s.err ++ BitVec.ofBool s.done ++
    BitVec.ofBool s.busy

/-- The CTRL word `{29'b0, 0, IE_ERR, IE_DONE}` (10_state.md R26, 20_memory.md R51). -/
def State.ctrlWord (s : State) : Word :=
  0#29 ++ 0#1 ++ BitVec.ofBool s.ieErr ++ BitVec.ofBool s.ieDone

/-- The interrupt output, a function of state (10_state.md R33, 60_exceptions.md R180). -/
def State.irq (s : State) : Bool := (s.ieDone && s.done) || (s.ieErr && (s.err || s.ovr))

/-- The busy hazard's record: a dropped host write sets OVR (10_state.md R29, 20_memory.md R55, 60_exceptions.md R174). -/
def State.recordOverrun (s : State) : State := { s with ovr := true }

end Machine

end Sys2Proof
end

