-- ==== Sys2Proof/Machine/Operands.lean ====
section
/-! DEFINITION. The operand forms of 30_encoding.md R81: scalar registers, vector groups and quaternion groups
(10_state.md R22), read from a snapshot and written as a list of register writes (00_scope.md R11). -/

namespace Sys2Proof.Machine

/-- Register `k` of the group with base `b`. A command reaches it only after its base has passed the range check of
30_encoding.md R84, where `b + k` is at most 31 and nothing wraps (R87). -/
def groupReg (b : RegIdx) (k : RegIdx) : RegIdx := b + k

/-- `S[f]`, a scalar operand. -/
def scalarAt (S : RegFile) (f : RegIdx) : Word := S[f]

/-- `V_S(f) = (S[f], S[f+1], S[f+2])` (42_vector.md R131). -/
def vectorAt (S : RegFile) (f : RegIdx) : Vec3 :=
  ⟨S[f], S[groupReg f 1], S[groupReg f 2]⟩

/-- `Q_S(f) = (S[f], (S[f+1], S[f+2], S[f+3]))` (43_quaternion.md R153). -/
def quatAt (S : RegFile) (f : RegIdx) : Quat :=
  ⟨S[f], ⟨S[groupReg f 1], S[groupReg f 2], S[groupReg f 3]⟩⟩

/-- One register write: index and word (00_scope.md R11). -/
abbrev RegWrite := RegIdx × Word

/-- `x[d] <- v`. -/
def scalarWrites (d : RegIdx) (v : Word) : List RegWrite := [(d, v)]

/-- `(x[d], x[d+1], x[d+2]) <- v` (42_vector.md R131). -/
def vectorWrites (d : RegIdx) (v : Vec3) : List RegWrite :=
  [(d, v.x), (groupReg d 1, v.y), (groupReg d 2, v.z)]

/-- `(x[d], x[d+1], x[d+2], x[d+3]) <- q` (43_quaternion.md R153). -/
def quatWrites (d : RegIdx) (q : Quat) : List RegWrite :=
  [(d, q.w), (groupReg d 1, q.v.x), (groupReg d 2, q.v.y), (groupReg d 3, q.v.z)]

/-- The registers that a field of this kind names (10_state.md R22, 30_encoding.md R81). -/
def kindRegs : Kind → RegIdx → List RegIdx
  | .scalar, f => [f]
  | .vector, f => [f, groupReg f 1, groupReg f 2]
  | .quaternion, f => [f, groupReg f 1, groupReg f 2, groupReg f 3]
  | .unused, _ => []

/-- The registers a command reads: those of its fields `a` and `b` (30_encoding.md R83). -/
def readsOf (i : Instr) : List RegIdx := kindRegs i.op.kindA i.fieldA ++ kindRegs i.op.kindB i.fieldB

/-- The registers a command writes: those of its field `d` (30_encoding.md R83). -/
def writesOf (i : Instr) : List RegIdx := kindRegs i.op.kindD i.fieldD

end Sys2Proof.Machine
end

