-- ==== Sys2Proof/Machine/Ops.lean ====
section
/-! DEFINITION. The shared operations of a command: its result list, the completion (10_state.md R30), the entry of a
command error (60_exceptions.md R177) and the return from one (R178), acceptance (R29) and the two resets
(70_reset_and_hazards.md R200, R202). -/

namespace Sys2Proof.Machine

/-- What `Execute` answers: `Ok(writes)` or `Err(code)` (30_encoding.md R84, 10_state.md R30). -/
abbrev Result := Except CmdError (List RegWrite)

/-- `x[i] <- v`: the register takes the word and counts as written (10_state.md R20, 70_reset_and_hazards.md R204). -/
def State.writeReg (i : RegIdx) (v : Word) (s : State) : State :=
  { s with regs := s.regs.set i v, written := s.written.set i true }

/-- The writes of a result list, all in this one step (10_state.md R30). -/
def State.writeRegs (ws : List RegWrite) (s : State) : State :=
  ws.foldl (fun s p => s.writeReg p.1 p.2) s

/-- ERROR ENTRY (60_exceptions.md R177, R173): ERR is set; ECODE and ERRCMD take the code and the command word only
if ERR was 0. No register is written, and there is no pc or mode to save. -/
def State.recordError (e : CmdError) (w : Word) (s : State) : State :=
  { s with
    err := true
    ecode := if s.err then s.ecode else e.code
    errcmd := if s.err then s.errcmd else w }

/-- ERROR RETURN (60_exceptions.md R178): acknowledging the error clears ERR, ECODE and ERRCMD. -/
def State.acknowledgeError (s : State) : State :=
  { s with err := false, ecode := 0#4, errcmd := 0#32 }

/-- The end of every completion (10_state.md R30): DONE <- 1, BUSY <- 0, the slot is empty. -/
def State.retire (s : State) : State :=
  { s with done := true, busy := false, inflight := none }

/-- COMPLETION of a command whose word is `w` and whose result is `r` (10_state.md R30). -/
def State.complete (w : Word) (r : Result) (s : State) : State :=
  match r with
  | .ok ws => (s.writeRegs ws).retire
  | .error e => (s.recordError e w).retire

/-- The command that executing `i` completes: the slot's pair `(w, S)` (10_state.md R30). With the slot empty, where
`step` never executes anything, it is `i`'s own word over the register file as it stands (R31, log 6). -/
def State.commandOf (i : Instr) (s : State) : Command :=
  s.inflight.getD ⟨encode i, s.regs⟩

/-- R84 from its third check on: GROUP_RANGE if a base is out of range, else the command's own rule. -/
def rangeChecked (i : Instr) (sem : RegFile → Result) (S : RegFile) : Result :=
  if i.wellFormed then sem S else .error .groupRange

/-- A command's whole effect: its rule on the snapshot, then the completion (10_state.md R30, 30_encoding.md R84). -/
def perform (i : Instr) (sem : RegFile → Result) (s : State) : Host.Outcome State Fault Refusal :=
  .next (s.complete (s.commandOf i).word (rangeChecked i sem (s.commandOf i).operands))

/-- ACCEPTANCE of the word `w` while BUSY = 0: the sources are read now, nothing is decoded or checked
(10_state.md R29). -/
def State.accept (w : Word) (s : State) : State :=
  { s with inflight := some ⟨w, s.regs⟩, busy := true }

/-- SOFT RESET (70_reset_and_hazards.md R202): the slot, STATUS, CTRL and ERRCMD are cleared, the registers stay. -/
def State.softReset (s : State) : State :=
  { s with
    inflight := none
    busy := false
    done := false
    err := false
    ovr := false
    ecode := 0#4
    ieDone := false
    ieErr := false
    errcmd := 0#32 }

/-- HARDWARE RESET (70_reset_and_hazards.md R200, R201): the engine is as in `State.reset`. What is not the engine's,
the coming turns, the latest answer and the count of free draws, stays (log 9). -/
def State.hardwareReset (s : State) : State :=
  { State.reset with turns := s.turns, reply := s.reply, draws := s.draws }

end Sys2Proof.Machine
end

