-- ==== Sys2Proof/Machine/Quaternion.lean ====
section
/-! DEFINITION. The Quaternion commands (43_quaternion.md R152 to R154). -/

namespace Sys2Proof.Machine

/-- QID (R152): the group `d` takes the identity quaternion; no register is read. -/
def execQid (d : RegIdx) (s : State) : Host.Outcome State Fault Refusal :=
  perform (.qid d) (fun _ => .ok (quatWrites d qident)) s

/-- QMUL (R153): the group `d` takes `qmul(Q_S(a), Q_S(b))`. -/
def execQmul (d a b : RegIdx) (s : State) : Host.Outcome State Fault Refusal :=
  perform (.qmul d a b) (fun S => .ok (quatWrites d (qmul (quatAt S a) (quatAt S b)))) s

/-- QROT (R154): the vector group `d` takes `qrot(Q_S(a), V_S(b))`. -/
def execQrot (d a b : RegIdx) (s : State) : Host.Outcome State Fault Refusal :=
  perform (.qrot d a b) (fun S => .ok (vectorWrites d (qrot (quatAt S a) (vectorAt S b)))) s

end Sys2Proof.Machine
end

