-- ==== Sys2Proof/Machine/Scalar.lean ====
section
/-! DEFINITION. The Fixed Scalar commands (41_scalar.md R101 to R107). -/

namespace Sys2Proof.Machine

/-- ADD (R101): `x[d] <- fadd(S[a], S[b])`. -/
def execAdd (d a b : RegIdx) (s : State) : Host.Outcome State Fault Refusal :=
  perform (.add d a b) (fun S => .ok (scalarWrites d (fadd (scalarAt S a) (scalarAt S b)))) s

/-- SUB (R102): `x[d] <- fsub(S[a], S[b])`. -/
def execSub (d a b : RegIdx) (s : State) : Host.Outcome State Fault Refusal :=
  perform (.sub d a b) (fun S => .ok (scalarWrites d (fsub (scalarAt S a) (scalarAt S b)))) s

/-- NEG (R103): `x[d] <- fneg(S[a])`. -/
def execNeg (d a : RegIdx) (s : State) : Host.Outcome State Fault Refusal :=
  perform (.neg d a) (fun S => .ok (scalarWrites d (fneg (scalarAt S a)))) s

/-- MUL (R104): `x[d] <- fmul(S[a], S[b])`. -/
def execMul (d a b : RegIdx) (s : State) : Host.Outcome State Fault Refusal :=
  perform (.mul d a b) (fun S => .ok (scalarWrites d (fmul (scalarAt S a) (scalarAt S b)))) s

/-- DIV's rule (R105): DIV_ZERO if the divisor is zero, else the truncated quotient. -/
def divResult (d : RegIdx) (x y : Word) : Result :=
  if sint32 y = 0 then .error .divZero else .ok (scalarWrites d (fdiv x y))

/-- DIV (R105): `x[d] <- fdiv(S[a], S[b])`, or the error DIV_ZERO. -/
def execDiv (d a b : RegIdx) (s : State) : Host.Outcome State Fault Refusal :=
  perform (.div d a b) (fun S => divResult d (scalarAt S a) (scalarAt S b)) s

/-- FROMINT (R106): `x[d] <- wrap32(sint32(S[a]) * 2^24)`. -/
def execFromint (d a : RegIdx) (s : State) : Host.Outcome State Fault Refusal :=
  perform (.fromint d a) (fun S => .ok (scalarWrites d (fromInt (scalarAt S a)))) s

/-- TOINTS's rule (R107): SCALE_ZERO if the scale or `dsc` is zero, else the projection. -/
def tointsResult (d : RegIdx) (n s : Word) : Result :=
  if sint32 s = 0 then .error .scaleZero
  else if scaleDivisor s = 0 then .error .scaleZero
  else .ok (scalarWrites d (toIntScaled n s))

/-- TOINTS (R107): `x[d] <- wrap32(tdiv(n, dsc))`, or the error SCALE_ZERO. -/
def execToints (d a b : RegIdx) (s : State) : Host.Outcome State Fault Refusal :=
  perform (.toints d a b) (fun S => tointsResult d (scalarAt S a) (scalarAt S b)) s

end Sys2Proof.Machine
end

