-- ==== Sys2Proof/Machine/Vector.lean ====
section
/-! DEFINITION. The Vector3 commands (42_vector.md R131 to R134). -/

namespace Sys2Proof.Machine

/-- VADD (R131): the group `d` takes `vadd(V_S(a), V_S(b))`. -/
def execVadd (d a b : RegIdx) (s : State) : Host.Outcome State Fault Refusal :=
  perform (.vadd d a b) (fun S => .ok (vectorWrites d (vadd (vectorAt S a) (vectorAt S b)))) s

/-- VSCALE (R132): the group `d` takes `vscale(V_S(a), S[b])`. -/
def execVscale (d a b : RegIdx) (s : State) : Host.Outcome State Fault Refusal :=
  perform (.vscale d a b) (fun S => .ok (vectorWrites d (vscale (vectorAt S a) (scalarAt S b)))) s

/-- VDOT (R133): `x[d] <- vdot(V_S(a), V_S(b))`. -/
def execVdot (d a b : RegIdx) (s : State) : Host.Outcome State Fault Refusal :=
  perform (.vdot d a b) (fun S => .ok (scalarWrites d (vdot (vectorAt S a) (vectorAt S b)))) s

/-- VCROSS (R134): the group `d` takes `vcross(V_S(a), V_S(b))`. -/
def execVcross (d a b : RegIdx) (s : State) : Host.Outcome State Fault Refusal :=
  perform (.vcross d a b) (fun S => .ok (vectorWrites d (vcross (vectorAt S a) (vectorAt S b)))) s

end Sys2Proof.Machine
end

