-- ==== Sys2Proof/Machine/Dispatch.lean ====
section
/-! DEFINITION. One arm per command: execution of a decoded command, that is its completion (10_state.md R30). -/

namespace Sys2Proof.Machine

def exec (i : Instr) (s : State) : Host.Outcome State Fault Refusal :=
  match i with
  -- Fixed Scalar (41_scalar.md)
  | .add d a b => Sys2Proof.Machine.execAdd d a b s
  | .sub d a b => Sys2Proof.Machine.execSub d a b s
  | .neg d a => Sys2Proof.Machine.execNeg d a s
  | .mul d a b => Sys2Proof.Machine.execMul d a b s
  | .div d a b => Sys2Proof.Machine.execDiv d a b s
  | .fromint d a => Sys2Proof.Machine.execFromint d a s
  | .toints d a b => Sys2Proof.Machine.execToints d a b s
  -- Vector3 (42_vector.md)
  | .vadd d a b => Sys2Proof.Machine.execVadd d a b s
  | .vscale d a b => Sys2Proof.Machine.execVscale d a b s
  | .vdot d a b => Sys2Proof.Machine.execVdot d a b s
  | .vcross d a b => Sys2Proof.Machine.execVcross d a b s
  -- Quaternion (43_quaternion.md)
  | .qid d => Sys2Proof.Machine.execQid d s
  | .qmul d a b => Sys2Proof.Machine.execQmul d a b s
  | .qrot d a b => Sys2Proof.Machine.execQrot d a b s

end Sys2Proof.Machine
end

