-- ==== Sys2Proof/Machine/HostPort.lean ====
section
/-! DEFINITION. The host window: its map (20_memory.md R51), the two transactions (R52 to R55), and the byte lanes and
platform addresses of R50, R54 and R58. -/

namespace Sys2Proof.Machine

/-- What stands at an aligned offset of the window (20_memory.md R51). -/
inductive WindowReg where
  | gpr (i : RegIdx)
  | cmd
  | status
  | ctrl
  | errcmd
  | id
  | reserved
  deriving DecidableEq, Repr

/-- The window map (20_memory.md R51): word `n` of the window. -/
def windowReg (off : BitVec 8) : WindowReg :=
  if h : off.toNat / 4 < 32 then .gpr ⟨off.toNat / 4, h⟩
  else if off.toNat / 4 = 32 then .cmd
  else if off.toNat / 4 = 33 then .status
  else if off.toNat / 4 = 34 then .ctrl
  else if off.toNat / 4 = 35 then .errcmd
  else if off.toNat / 4 = 36 then .id
  else .reserved

/-- The transaction is one the port supports: size 4, aligned, and for a write all four lanes (20_memory.md R52,
R53). -/
def Transaction.supported (t : Transaction) : Bool :=
  decide (t.size = 4) && decide (t.off.toNat % 4 = 0) &&
    (match t.access with
     | .read => true
     | .write lanes _ => decide (lanes = 0b1111#4))

/-- `ReadWord`: what a host read returns (20_memory.md R51). An unwritten register gives a free draw
(70_reset_and_hazards.md R204, log 4). -/
def State.readWord (r : WindowReg) (s : State) : Word :=
  match r with
  | .gpr i => if s.written[i] then s.regs[i] else Config.freeRead s.draws
  | .cmd => 0#32
  | .status => s.statusWord
  | .ctrl => s.ctrlWord
  | .errcmd => s.errcmd
  | .id => Config.idWord
  | .reserved => 0#32

/-- The free draws a host read takes: one for an unwritten register (70_reset_and_hazards.md R204), else none. -/
def State.drawsTaken (r : WindowReg) (s : State) : Nat :=
  match r with
  | .gpr i => if s.written[i] then 0 else 1
  | .cmd | .status | .ctrl | .errcmd | .id | .reserved => 0

/-- A host write to a general register (20_memory.md R55). -/
def State.hostWriteReg (i : RegIdx) (v : Word) (s : State) : State :=
  if s.busy then s.recordOverrun else s.writeReg i v

/-- A host write to CMD (10_state.md R29). -/
def State.hostWriteCmd (w : Word) (s : State) : State :=
  if s.busy then s.recordOverrun else s.accept w

/-- A host write to STATUS: write 1 to clear (10_state.md R25). -/
def State.hostWriteStatus (v : Word) (s : State) : State :=
  let s1 := if v[1] then { s with done := false } else s
  let s2 := if v[2] then s1.acknowledgeError else s1
  if v[3] then { s2 with ovr := false } else s2

/-- A host write to CTRL: the soft reset if bit 2 is set, else the two enables (10_state.md R26). -/
def State.hostWriteCtrl (v : Word) (s : State) : State :=
  if v[2] then s.softReset
  else { s with ieDone := v[0], ieErr := v[1] }

/-- `WriteWord`: what a host write does (20_memory.md R51); writes to ERRCMD, ID and reserved offsets do nothing. -/
def State.writeWord (r : WindowReg) (v : Word) (s : State) : State :=
  match r with
  | .gpr i => s.hostWriteReg i v
  | .cmd => s.hostWriteCmd v
  | .status => s.hostWriteStatus v
  | .ctrl => s.hostWriteCtrl v
  | .errcmd => s
  | .id => s
  | .reserved => s

/-- `HostAccess`: one transaction, its effect and its answer (20_memory.md R52). -/
def State.transact (t : Transaction) (s : State) : State :=
  if t.supported then
    match t.access with
    | .read =>
      { s with
        reply := some (.data (s.readWord (windowReg t.off)))
        draws := s.draws + s.drawsTaken (windowReg t.off) }
    | .write _ v => { s.writeWord (windowReg t.off) v with reply := some .ok }
  else { s with reply := some .busError }

/-- `MemRead(off, 4)` (20_memory.md R52). -/
def memRead (off : BitVec 8) : Transaction := ⟨off, 4, .read⟩

/-- `MemWrite(off, 4, v)` (20_memory.md R52). -/
def memWrite (off : BitVec 8) (v : Word) : Transaction := ⟨off, 4, .write 0b1111#4 v⟩

/-- The window offset of register `i`, `4·i` (20_memory.md R51). -/
def regOffset (i : RegIdx) : BitVec 8 := BitVec.ofNat 8 (4 * i.val)

/-- Byte lane `k` of a word: bits `[8k+7:8k]`, little-endian (20_memory.md R54). -/
def byteLane (w : Word) (k : Fin 4) : Byte := w.extractLsb' (8 * k.val) 8

/-- The byte that the window shows at a byte offset: lane `off mod 4` of the word that stands there (20_memory.md
R54). No transaction reads a single byte (R53); statements use this view to speak of every byte of the window. -/
def State.windowByte (off : BitVec 8) (s : State) : Byte :=
  byteLane (s.readWord (windowReg off)) ⟨off.toNat % 4, Nat.mod_lt _ (by decide)⟩

/-- The window offset of a platform address; none where the address is not the engine's (20_memory.md R50, R58). -/
def windowOffset? (addr : Nat) : Option (BitVec 8) :=
  if Config.windowBase ≤ addr ∧ addr < Config.windowBase + Config.windowSize then
    some (BitVec.ofNat 8 (addr - Config.windowBase))
  else none

end Sys2Proof.Machine
end

