-- ==== Sys2Proof/Machine/Completion.lean ====
section
/-! DEFINITION. Turns: the engine's completion step (10_state.md R30) with `Execute` (30_encoding.md R84), and which
agent moves next (00_scope.md R7). -/

namespace Sys2Proof.Machine

/-- `Execute` and the completion of the slot's command: decode it and execute it, or complete it with the decode
error (30_encoding.md R84, 10_state.md R30). -/
def runCommand (c : Command) (s : State) : Host.Outcome State Fault Refusal :=
  match decode c.word with
  | .ok i => exec i s
  | .error e => .next (s.complete c.word (.error e))

/-- The engine's turn: completion is enabled exactly when the slot is not empty (10_state.md R30), and an idle engine
does nothing (60_exceptions.md R190). -/
def engineStep (s : State) : Host.Outcome State Fault Refusal :=
  match s.inflight with
  | some c => runCommand c s
  | none => .next s

/-- One step: the first of the coming turns. When the host has no access left, the engine still takes its turn, so
that a command in flight completes (10_state.md R30, 70_reset_and_hazards.md R214, log 2). -/
def takeTurn (s : State) : Host.Outcome State Fault Refusal :=
  match s.turns with
  | [] => engineStep s
  | .engine :: rest => engineStep { s with turns := rest }
  | .host t :: rest => .next (State.transact t { s with turns := rest })
  | .hardReset :: rest => .next (State.hardwareReset { s with turns := rest })

/-- The table word `w` of `nbits` bits as the 32-bit command word (bits above `nbits` zero). -/
def tableWord (nbits w : Nat) : Word := BitVec.ofNat 32 (w % 2 ^ nbits)

/-- The word `w` accepted, and the engine's turn next (log 11). -/
def State.withCommand (w : Word) (s : State) : State :=
  { s.accept w with turns := .engine :: s.turns }

end Sys2Proof.Machine
end

