-- ==== Sys2Proof/Machine/Step.lean ====
section
/-! DEFINITION. The step of the machine, and the placing of the command it runs next. -/

namespace Sys2Proof.Machine

/-- One step of the machine: the next turn of host, engine or platform (00_scope.md R7). -/
def step (s : State) : Host.Outcome State Fault Refusal := takeTurn s

/-- `s` with the table word in the in-flight slot, as acceptance leaves it (10_state.md R29), and the engine's turn
next, so that the very next step completes it. The engine fetches nothing (R24): this stands for the host's write to
CMD (log 11). -/
def State.withFetchWord (s : State) (nbits w : Nat) : State := s.withCommand (tableWord nbits w)

end Sys2Proof.Machine
end

