-- ==== Sys2Proof/Machine/Run.lean ====
section
/-! DEFINITION. The run of a host program: when it ends, and the end state (70_reset_and_hazards.md R214). -/

namespace Sys2Proof.Machine

/-- The turn is an access of the host program (00_scope.md R7). -/
def Turn.isHost : Turn → Bool
  | .host _ => true
  | .engine => false
  | .hardReset => false

/-- The run has ended: the host program has performed its last access and the slot is empty
(70_reset_and_hazards.md R214). Turns of the engine or of the platform may be left; they are no part of the run. -/
def State.ended (s : State) : Bool := !s.turns.any Turn.isHost && s.inflight.isNone

/-- What the end state of a run consists of (70_reset_and_hazards.md R214). -/
structure EndState where
  regs : RegFile
  status : Word
  ctrl : Word
  errcmd : Word
  deriving DecidableEq, Repr

/-- The register file, STATUS, CTRL and ERRCMD as they are now: the end state where the run has ended
(70_reset_and_hazards.md R214). -/
def State.endState (s : State) : EndState := ⟨s.regs, s.statusWord, s.ctrlWord, s.errcmd⟩

/-- The run from `s`: steps up to the point where it has ended, at most `k` of them (70_reset_and_hazards.md R214). -/
def runToEnd : Nat → State → Host.Outcome State Fault Refusal
  | 0, s => .next s
  | k + 1, s =>
    if s.ended then .next s
    else
      match step s with
      | .next t => runToEnd k t
      | .fault f => .fault f
      | .refused r => .refused r

end Sys2Proof.Machine
end

