-- ==== Sys2Proof/Safety.lean ====
section
/-! DEFINITION. The terms in which statements speak of the machine: how a completion ends (10_state.md R30), the
invariants of its state, and what a run that keeps the spec's requirements is. -/

namespace Sys2Proof.Machine

/-- What no completion changes: OVR, the interrupt enables, and the model's own fields. -/
structure Untouched (s t : State) : Prop where
  ovr : t.ovr = s.ovr
  ieDone : t.ieDone = s.ieDone
  ieErr : t.ieErr = s.ieErr
  turns : t.turns = s.turns
  reply : t.reply = s.reply
  draws : t.draws = s.draws

/-- The end of every completion: DONE is 1, BUSY is 0, the slot is empty (10_state.md R30). -/
structure Retired (t : State) : Prop where
  done : t.done = true
  busy : t.busy = false
  inflight : t.inflight = none

/-- `t` is `s` after a command completed with `Ok(ws)` (10_state.md R30): every write of `ws` has happened, every
other register is as before, no error is recorded. -/
structure Succeeded (s t : State) (ws : List RegWrite) : Prop where
  result : ∀ p ∈ ws, t.regs[p.1] = p.2
  otherRegs : ∀ i : RegIdx, (∀ p ∈ ws, p.1 ≠ i) → t.regs[i] = s.regs[i]
  nowWritten : ∀ p ∈ ws, t.written[p.1] = true
  otherWritten : ∀ i : RegIdx, (∀ p ∈ ws, p.1 ≠ i) → t.written[i] = s.written[i]
  err : t.err = s.err
  ecode : t.ecode = s.ecode
  errcmd : t.errcmd = s.errcmd
  retired : Retired t
  untouched : Untouched s t

/-- `t` is `s` after a command with word `w` completed with the error `e` (10_state.md R30, 60_exceptions.md R177): no
register is written, ERR is set, and ECODE and ERRCMD hold the first error since ERR was 0. -/
structure Failed (s t : State) (e : CmdError) (w : Word) : Prop where
  regs : t.regs = s.regs
  written : t.written = s.written
  err : t.err = true
  ecode : t.ecode = if s.err then s.ecode else e.code
  errcmd : t.errcmd = if s.err then s.errcmd else w
  retired : Retired t
  untouched : Untouched s t

/-- The snapshot `S` that executing `i` reads: the slot's, or the register file where the slot is empty (10_state.md
R29, R31). -/
def State.snapshotOf (i : Instr) (s : State) : RegFile := (s.commandOf i).operands

/-- The command word `w` that executing `i` completes: the slot's, or `i`'s own where the slot is empty (10_state.md
R29, R30). -/
def State.wordOf (i : Instr) (s : State) : Word := (s.commandOf i).word

/-- The legal states of the status bits and the slot: BUSY says whether a command is in flight (10_state.md R29, R30),
its snapshot is the register file (R31), ECODE and ERRCMD are 0 while ERR is 0 (R25, R27), and a recorded code is one
of 1 to 5 (60_exceptions.md R171). -/
structure State.Consistent (s : State) : Prop where
  busy : s.busy = s.inflight.isSome
  snapshot : ∀ c, s.inflight = some c → c.operands = s.regs
  noError : s.err = false → s.ecode = 0#4 ∧ s.errcmd = 0#32
  errorCode : s.err = true → 1 ≤ s.ecode.toNat ∧ s.ecode.toNat ≤ 5

/-- The command word `w` can complete with the error code `code` (60_exceptions.md R171, R172). -/
def errorOf (w : Word) (code : BitVec 4) : Prop :=
  match decode w with
  | .error e => code = e.code
  | .ok (.div _ _ _) => code = CmdError.divZero.code
  | .ok (.toints _ _ _) => code = CmdError.scaleZero.code
  | .ok _ => False

/-- A register that nothing has written since hardware reset holds the model's reset word (log 3). -/
def State.UnwrittenAtReset (s : State) : Prop :=
  ∀ i : RegIdx, s.written[i] = false → s.regs[i] = Config.resetRegister

/-- Every register that the command in flight reads has been written since hardware reset
(70_reset_and_hazards.md R204, R205). -/
def State.OperandsWritten (s : State) : Prop :=
  ∀ c i, s.inflight = some c → decode c.word = .ok i → ∀ r ∈ readsOf i, s.written[r] = true

/-- The transaction is one that the busy hazard drops while BUSY = 1: a supported write to CMD or to a register
(70_reset_and_hazards.md R210). -/
def Transaction.dropped (t : Transaction) : Bool :=
  t.supported &&
    (match t.access, windowReg t.off with
     | .write _ _, .gpr _ => true
     | .write _ _, .cmd => true
     | _, _ => false)

/-- The turn is a reset: the hardware reset, or a supported host write of CTRL with bit 2 set, the soft reset
(70_reset_and_hazards.md R201, R202). -/
def Turn.resets : Turn → Bool
  | .hardReset => true
  | .engine => false
  | .host t =>
    t.supported && decide (windowReg t.off = .ctrl) &&
      (match t.access with
       | .write _ v => v[2]
       | .read => false)

/-- The turn is a supported host write to the STATUS register with bit `k` of its data set (10_state.md R25). -/
def Turn.clearsStatusBit (k : Fin 32) : Turn → Bool
  | .hardReset => false
  | .engine => false
  | .host t =>
    t.supported && decide (windowReg t.off = .status) &&
      (match t.access with
       | .write _ v => v[k]
       | .read => false)

/-- The next turn is the engine's: its own turn in the list, or no turn left in the list (10_state.md R30). -/
def State.EngineNext (s : State) : Prop := s.turns = [] ∨ ∃ rest, s.turns = .engine :: rest

/-- `s` with its next turn taken off. -/
def State.popTurn (s : State) : State := { s with turns := s.turns.tail }

end Sys2Proof.Machine
end

