-- ==== Sys2Proof/Certificates/Slice0/Obligations.lean ====
section
/-! DEFINITION. The statements for the provers. In each, `S` is the snapshot that the command reads, the slot's or,
with the slot empty, the register file (log 6); `Succeeded` and `Failed` (Safety.lean) say what a completion writes
and, as its frame, everything it leaves unchanged. -/

open Sys2Proof Sys2Proof.Machine

/-! ### Reset, invariants, the step -/

/-- 10_state.md R34: the state after hardware reset, but for x[0]-x[31], which the rule leaves unspecified. -/
def Obligations.ResetHasTheStatedValues : Prop :=
  State.reset.inflight = none ∧ State.reset.busy = false ∧ State.reset.done = false ∧ State.reset.err = false ∧
  State.reset.ovr = false ∧ State.reset.ecode = 0#4 ∧ State.reset.ieDone = false ∧ State.reset.ieErr = false ∧
  State.reset.errcmd = 0#32 ∧ State.reset.readWord .id = 0x01202018#32 ∧ State.reset.irq = false ∧
  State.reset.statusWord = 0#32 ∧ State.reset.ctrlWord = 0#32

/-- 70_reset_and_hazards.md R200, R201: a hardware reset aborts the command in flight and puts the engine in the reset
state, whatever it was doing; it is not answered on the port. The register contents are the model's choice (logs 3
and 9), and the claim about them says only that they do not depend on the state before. -/
def Obligations.HardwareResetAbortsTheCommand : Prop :=
  ∀ (s : State) (rest : List Turn), s.turns = .hardReset :: rest →
    ∃ t, step s = .next t ∧ t.statusWord = 0#32 ∧ t.ctrlWord = 0#32 ∧ t.errcmd = 0#32 ∧ t.inflight = none ∧
      t.irq = false ∧ t.regs = State.reset.regs ∧ (∀ i : RegIdx, t.written[i] = false) ∧ t.turns = rest ∧
      t.reply = s.reply ∧ t.draws = s.draws

/-- The reset state is a legal state of the status bits and the slot (10_state.md R25, R27, R31, R34). -/
def Obligations.ResetIsConsistent : Prop := State.reset.Consistent

/-- Every step keeps the legal states: BUSY says whether a command is in flight, the snapshot is the register file
(10_state.md R31), ECODE and ERRCMD are 0 while ERR is 0 (R25, R27), a recorded code is one of 1 to 5
(60_exceptions.md R171). -/
def Obligations.StepKeepsConsistent : Prop :=
  ∀ s t : State, s.Consistent → step s = .next t → t.Consistent

/-- Every step keeps the error record truthful: while ERR is 1, ECODE is a code with which the command word in ERRCMD
can complete (10_state.md R25, R27, R30, 60_exceptions.md R171, R172). -/
def Obligations.StepKeepsErrorRecordTruthful : Prop :=
  ∀ s t : State, (s.err = true → errorOf s.errcmd s.ecode) → step s = .next t →
    (t.err = true → errorOf t.errcmd t.ecode)

/-- Every step keeps the registers that nothing has written at the model's reset word (the model's choice, log 3). -/
def Obligations.StepKeepsUnwrittenAtReset : Prop :=
  ∀ s t : State, s.UnwrittenAtReset → step s = .next t → t.UnwrittenAtReset

/-- The model's choice (logs 3, 5 and 17): no state stops the machine. A command error is an outcome of a completion
(60_exceptions.md R177), a refused bus transaction an answer to the host (R179, log 5), and a command that reads an
unwritten register, on which 70_reset_and_hazards.md R204 lets a model fault, reads the reset word (log 3). -/
def Obligations.EveryStepAnswersANextState : Prop := ∀ s : State, ∃ t, step s = .next t

/-- A step runs the decoded command: where the next turn is the engine's and the word in the slot decodes to `i`, the
step is `exec i` with that turn taken off; and so it is for the command placed by `withFetchWord` (10_state.md R30,
30_encoding.md R84; the form of the turns is the model's, log 1). -/
def Obligations.StepExecutesTheDecodedCommand : Prop :=
  (∀ (s : State) (c : Command) (i : Instr), s.inflight = some c → decode c.word = .ok i → s.EngineNext →
    step s = exec i s.popTurn) ∧
  (∀ (s : State) (w : Nat) (i : Instr), decode (BitVec.ofNat 32 w) = .ok i →
    step (s.withFetchWord 32 w) = exec i (s.accept (BitVec.ofNat 32 w)))

/-- 10_state.md R30's last sentence: a command in flight is completed, within as many steps as there are turns and one
more, unless a reset aborts it. -/
def Obligations.CommandInFlightCompletes : Prop :=
  ∀ (s : State) (c : Command), s.Consistent → s.inflight = some c → (∀ u ∈ s.turns, u.resets = false) →
    ∃ k t, 1 ≤ k ∧ k ≤ s.turns.length + 1 ∧ Host.Core.run core k s = .next t ∧ t.inflight = none ∧ t.done = true

/-- The model's reading (logs 16 and 18) of 60_exceptions.md R190 and 70_reset_and_hazards.md R214: an idle engine with no
turn left stays as it is, an idle engine's own turn changes nothing but the list of turns, and a run that has ended takes
no step more, whatever turns of the engine or the platform are left. -/
def Obligations.IdleEngineChangesNothing : Prop :=
  (∀ s : State, s.turns = [] → s.inflight = none → step s = .next s) ∧
  (∀ (s : State) (rest : List Turn), s.inflight = none → s.turns = .engine :: rest →
    step s = .next { s with turns := rest }) ∧
  (∀ (s : State) (k : Nat), s.ended = true → runToEnd k s = .next s)

/-! ### Encoding -/

/-- Decoding an encoded command gives it back, for every command with every operand the encoding admits
(30_encoding.md R80, R81, R83). -/
def Obligations.DecodeOfEncodeIsTheCommand : Prop :=
  ∀ i : Instr, i.wellFormed = true → decode (encode i) = .ok i

/-- 30_encoding.md R88: every word is exactly one command, or it fails with code 1, 2 or 3. -/
def Obligations.EveryWordIsOneCommandOrADecodeError : Prop :=
  ∀ w : Word,
    (∃ i : Instr, i.wellFormed = true ∧ encode i = w ∧ decode w = .ok i ∧
      ∀ j : Instr, j.wellFormed = true → encode j = w → j = i) ∨
    (∃ e : CmdError, decode w = .error e ∧ (e.code = 1#4 ∨ e.code = 2#4 ∨ e.code = 3#4) ∧
      ∀ j : Instr, j.wellFormed = true → encode j ≠ w)

/-- The opcode map's match and mask rows (30_encoding.md R83): a word is that command exactly when the masked word is the
match and, for a group operand, its base is in range. -/
def Obligations.MatchAndMaskRowsDecode : Prop :=
  ∀ w : Word,
    ((w &&& 0xFF0001FF#32 = 0x01000000#32) ↔ decode w = .ok (.add (dField w) (aField w) (bField w))) ∧
    ((w &&& 0xFF0001FF#32 = 0x02000000#32) ↔ decode w = .ok (.sub (dField w) (aField w) (bField w))) ∧
    ((w &&& 0xFF003FFF#32 = 0x03000000#32) ↔ decode w = .ok (.neg (dField w) (aField w))) ∧
    ((w &&& 0xFF0001FF#32 = 0x04000000#32) ↔ decode w = .ok (.mul (dField w) (aField w) (bField w))) ∧
    ((w &&& 0xFF0001FF#32 = 0x05000000#32) ↔ decode w = .ok (.div (dField w) (aField w) (bField w))) ∧
    ((w &&& 0xFF003FFF#32 = 0x06000000#32) ↔ decode w = .ok (.fromint (dField w) (aField w))) ∧
    ((w &&& 0xFF0001FF#32 = 0x07000000#32) ↔ decode w = .ok (.toints (dField w) (aField w) (bField w))) ∧
    ((w &&& 0xFF0001FF#32 = 0x10000000#32 ∧ (dField w).val ≤ 29 ∧ (aField w).val ≤ 29 ∧ (bField w).val ≤ 29) ↔
      decode w = .ok (.vadd (dField w) (aField w) (bField w))) ∧
    ((w &&& 0xFF0001FF#32 = 0x11000000#32 ∧ (dField w).val ≤ 29 ∧ (aField w).val ≤ 29) ↔
      decode w = .ok (.vscale (dField w) (aField w) (bField w))) ∧
    ((w &&& 0xFF0001FF#32 = 0x12000000#32 ∧ (aField w).val ≤ 29 ∧ (bField w).val ≤ 29) ↔
      decode w = .ok (.vdot (dField w) (aField w) (bField w))) ∧
    ((w &&& 0xFF0001FF#32 = 0x13000000#32 ∧ (dField w).val ≤ 29 ∧ (aField w).val ≤ 29 ∧ (bField w).val ≤ 29) ↔
      decode w = .ok (.vcross (dField w) (aField w) (bField w))) ∧
    ((w &&& 0xFF07FFFF#32 = 0x20000000#32 ∧ (dField w).val ≤ 28) ↔ decode w = .ok (.qid (dField w))) ∧
    ((w &&& 0xFF0001FF#32 = 0x21000000#32 ∧ (dField w).val ≤ 28 ∧ (aField w).val ≤ 28 ∧ (bField w).val ≤ 28) ↔
      decode w = .ok (.qmul (dField w) (aField w) (bField w))) ∧
    ((w &&& 0xFF0001FF#32 = 0x22000000#32 ∧ (dField w).val ≤ 29 ∧ (aField w).val ≤ 28 ∧ (bField w).val ≤ 29) ↔
      decode w = .ok (.qrot (dField w) (aField w) (bField w)))

/-- 30_encoding.md R91: the worked encodings. -/
def Obligations.WorkedEncodings : Prop :=
  decode 0x01184400#32 = .ok (.add 3 1 2) ∧ encode (.add 3 1 2) = 0x01184400#32 ∧
  decode 0x04004400#32 = .ok (.mul 0 1 2) ∧ encode (.mul 0 1 2) = 0x04004400#32 ∧
  decode 0x03290000#32 = .ok (.neg 5 4) ∧ encode (.neg 5 4) = 0x03290000#32 ∧
  decode 0x07100200#32 = .ok (.toints 2 0 1) ∧ encode (.toints 2 0 1) = 0x07100200#32 ∧
  decode 0x12FF4000#32 = .ok (.vdot 31 29 0) ∧ encode (.vdot 31 29 0) = 0x12FF4000#32 ∧
  decode 0x20400000#32 = .ok (.qid 8) ∧ encode (.qid 8) = 0x20400000#32 ∧
  decode 0x21E00800#32 = .ok (.qmul 28 0 4) ∧ encode (.qmul 28 0 4) = 0x21E00800#32 ∧
  decode 0x22600800#32 = .ok (.qrot 12 0 4) ∧ encode (.qrot 12 0 4) = 0x22600800#32 ∧
  (∀ i : Instr, (encode i).toNat =
    i.op.code.toNat * 2 ^ 24 + i.fieldD.val * 2 ^ 19 + i.fieldA.val * 2 ^ 14 + i.fieldB.val * 2 ^ 9)

/-- 30_encoding.md R85: an illegal opcode completes with ILLEGAL_OPCODE (code 1) and writes no register; there are 242
of them, and an all-zero word is one. -/
def Obligations.IllegalOpcodeCompletesWithCodeOne : Prop :=
  (∀ o : BitVec 8, (Op.ofCode? o = none ↔
    (o = 0x00#8 ∨ (0x08#8 ≤ o ∧ o ≤ 0x0F#8) ∨ (0x14#8 ≤ o ∧ o ≤ 0x1F#8) ∨ 0x23#8 ≤ o))) ∧
  ((List.range 256).filter (fun n => (Op.ofCode? (BitVec.ofNat 8 n)).isNone)).length = 242 ∧
  decode 0x00000000#32 = .error .illegalOpcode ∧ CmdError.illegalOpcode.code = 1#4 ∧
  (∀ (s : State) (c : Command), s.inflight = some c → s.EngineNext → Op.ofCode? (opcField c.word) = none →
    ∃ t, step s = .next t ∧ Failed s.popTurn t .illegalOpcode c.word)

/-- 30_encoding.md R86: a valid opcode with a nonzero reserved bit or unused field completes with RESERVED_BITS
(code 2), writes no register, and is not executed as the command its opcode names. -/
def Obligations.ReservedBitsCompleteWithCodeTwo : Prop :=
  CmdError.reservedBits.code = 2#4 ∧
  (∀ (s : State) (c : Command) (o : Op), s.inflight = some c → s.EngineNext → Op.ofCode? (opcField c.word) = some o →
    (zField c.word ≠ 0#9 ∨ ((o = .neg ∨ o = .fromint ∨ o = .qid) ∧ bField c.word ≠ 0) ∨
      (o = .qid ∧ aField c.word ≠ 0)) →
    ∃ t, step s = .next t ∧ Failed s.popTurn t .reservedBits c.word)

/-- 30_encoding.md R87: a vector base above 29 or a quaternion base above 28 makes the command complete with GROUP_RANGE
(code 3). It is said of the word in the slot and of the command as `exec` takes it. -/
def Obligations.GroupRangeCompletesWithCodeThree : Prop :=
  CmdError.groupRange.code = 3#4 ∧
  (∀ (s : State) (c : Command) (o : Op), s.inflight = some c → s.EngineNext → Op.ofCode? (opcField c.word) = some o →
    reservedNonzero o c.word = false →
    ((o.kindD = .vector ∧ 29 < (dField c.word).val) ∨ (o.kindD = .quaternion ∧ 28 < (dField c.word).val) ∨
      (o.kindA = .vector ∧ 29 < (aField c.word).val) ∨ (o.kindA = .quaternion ∧ 28 < (aField c.word).val) ∨
      (o.kindB = .vector ∧ 29 < (bField c.word).val) ∨ (o.kindB = .quaternion ∧ 28 < (bField c.word).val)) →
    ∃ t, step s = .next t ∧ Failed s.popTurn t .groupRange c.word) ∧
  (∀ (i : Instr) (s : State), i.wellFormed = false →
    ∃ t, exec i s = .next t ∧ Failed s t .groupRange (s.wordOf i))

/-- 60_exceptions.md R175: of several errors exactly one is reported, in the order ILLEGAL_OPCODE, RESERVED_BITS,
GROUP_RANGE, then the command's execution error: a word that decodes to DIV completes with DIV_ZERO where its divisor is
zero, one that decodes to TOINTS with SCALE_ZERO where its scale is zero or too large. That no other command raises these
two is EachCommandFailsOnlyWithItsCodes. -/
def Obligations.ErrorPriority : Prop :=
  (∀ w : Word, Op.ofCode? (opcField w) = none → decode w = .error .illegalOpcode) ∧
  (∀ (w : Word) (o : Op), Op.ofCode? (opcField w) = some o → reservedNonzero o w = true →
    decode w = .error .reservedBits) ∧
  (∀ (w : Word) (o : Op), Op.ofCode? (opcField w) = some o → reservedNonzero o w = false →
    (o.build (dField w) (aField w) (bField w)).wellFormed = false → decode w = .error .groupRange) ∧
  (∀ (s : State) (c : Command) (e : CmdError), s.inflight = some c → s.EngineNext → decode c.word = .error e →
    ∃ t, step s = .next t ∧ Failed s.popTurn t e c.word) ∧
  (∀ (s : State) (c : Command) (d a b : RegIdx), s.inflight = some c → s.EngineNext →
    decode c.word = .ok (.div d a b) → c.operands[b] = 0#32 →
    ∃ t, step s = .next t ∧ Failed s.popTurn t .divZero c.word) ∧
  (∀ (s : State) (c : Command) (d a b : RegIdx), s.inflight = some c → s.EngineNext →
    decode c.word = .ok (.toints d a b) → (c.operands[b] = 0#32 ∨ 2 ^ 24 < c.operands[b].toInt.natAbs) →
    ∃ t, step s = .next t ∧ Failed s.popTurn t .scaleZero c.word) ∧
  decode 0x22F00001#32 = .error .reservedBits ∧ decode 0x05184401#32 = .error .reservedBits

/-- Which command can complete with which code (60_exceptions.md R172), as a bound: a completion that records an error
records one of the codes the rule lists for the word's opcode. -/
def Obligations.EachCommandFailsOnlyWithItsCodes : Prop :=
  ∀ (s t : State) (c : Command), s.inflight = some c → s.EngineNext → s.err = false → step s = .next t →
    t.err = true →
    match Op.ofCode? (opcField c.word) with
    | none => t.ecode = 1#4
    | some .add | some .sub | some .mul | some .neg | some .fromint => t.ecode = 2#4
    | some .div => t.ecode = 2#4 ∨ t.ecode = 4#4
    | some .toints => t.ecode = 2#4 ∨ t.ecode = 5#4
    | some .vadd | some .vcross | some .vscale | some .vdot | some .qmul | some .qrot | some .qid =>
      t.ecode = 2#4 ∨ t.ecode = 3#4

/-! ### Fixed Scalar commands -/

/-- 41_scalar.md R101, with the two laws of its corner cases that the rule marks as derived from R100. -/
def Obligations.AddWritesTheWrappedSum : Prop :=
  (∀ (d a b : RegIdx) (s : State), let S := s.snapshotOf (.add d a b)
    ∃ t, exec (.add d a b) s = .next t ∧ Succeeded s t [(d, BitVec.ofInt 32 (S[a].toInt + S[b].toInt))]) ∧
  (∀ w : Word, opcField w = 0x01#8 →
    decode w = if zField w = 0#9 then .ok (.add (dField w) (aField w) (bField w)) else .error .reservedBits) ∧
  fadd 0x7FFFFFFF#32 0x00000001#32 = 0x80000000#32 ∧ fadd 0x80000000#32 0x80000000#32 = 0x00000000#32 ∧
  (∀ x y : Word, fadd x y = fadd y x) ∧ (∀ x y z : Word, fadd (fadd x y) z = fadd x (fadd y z)) ∧
  decode 0x01184400#32 = .ok (.add 3 1 2) ∧ fadd 0x01800000#32 0x02400000#32 = 0x03C00000#32

/-- 41_scalar.md R102. -/
def Obligations.SubWritesTheWrappedDifference : Prop :=
  (∀ (d a b : RegIdx) (s : State), let S := s.snapshotOf (.sub d a b)
    ∃ t, exec (.sub d a b) s = .next t ∧ Succeeded s t [(d, BitVec.ofInt 32 (S[a].toInt - S[b].toInt))]) ∧
  (∀ w : Word, opcField w = 0x02#8 →
    decode w = if zField w = 0#9 then .ok (.sub (dField w) (aField w) (bField w)) else .error .reservedBits) ∧
  fsub 0x80000000#32 0x00000001#32 = 0x7FFFFFFF#32 ∧ fsub 0x00000000#32 0x80000000#32 = 0x80000000#32 ∧
  (∀ x : Word, fsub x x = 0#32) ∧ fsub 0x01000000#32 0x02800000#32 = 0xFE800000#32

/-- 41_scalar.md R103. -/
def Obligations.NegWritesTheWrappedNegation : Prop :=
  (∀ (d a : RegIdx) (s : State), let S := s.snapshotOf (.neg d a)
    ∃ t, exec (.neg d a) s = .next t ∧ Succeeded s t [(d, BitVec.ofInt 32 (-S[a].toInt))]) ∧
  (∀ w : Word, opcField w = 0x03#8 →
    decode w = if zField w = 0#9 ∧ bField w = 0 then .ok (.neg (dField w) (aField w)) else .error .reservedBits) ∧
  fneg 0x80000000#32 = 0x80000000#32 ∧ fneg 0#32 = 0#32 ∧ fneg 0x00000001#32 = 0xFFFFFFFF#32 ∧
  decode 0x03290000#32 = .ok (.neg 5 4) ∧ fneg 0x01000000#32 = 0xFF000000#32

/-- 41_scalar.md R104: the exact product, floored by 2^24 and wrapped, with the commutativity that the rule marks as
derived from R100. -/
def Obligations.MulWritesTheFlooredProduct : Prop :=
  (∀ (d a b : RegIdx) (s : State), let S := s.snapshotOf (.mul d a b)
    ∃ t, exec (.mul d a b) s = .next t ∧ Succeeded s t [(d, BitVec.ofInt 32 (S[a].toInt * S[b].toInt / 2 ^ 24))]) ∧
  (∀ w : Word, opcField w = 0x04#8 →
    decode w = if zField w = 0#9 then .ok (.mul (dField w) (aField w) (bField w)) else .error .reservedBits) ∧
  fmul 0xFFFFFFFF#32 0x00800000#32 = 0xFFFFFFFF#32 ∧ fmul 0x00000001#32 0x00800000#32 = 0x00000000#32 ∧
  fmul 0x10000000#32 0x10000000#32 = 0x00000000#32 ∧ fmul 0x80000000#32 0xFF000000#32 = 0x80000000#32 ∧
  fmul 0x80000000#32 0x80000000#32 = 0x00000000#32 ∧ (∀ y : Word, fmul 0x01000000#32 y = y) ∧
  (∀ x y : Word, fmul x y = fmul y x) ∧
  decode 0x04004400#32 = .ok (.mul 0 1 2) ∧ fmul 0x00400000#32 0x04000000#32 = 0x01000000#32

/-- 41_scalar.md R105: the quotient of the shifted dividend, truncated toward zero and wrapped, or the error DIV_ZERO
with no register written. -/
def Obligations.DivWritesTheTruncatedQuotient : Prop :=
  (∀ (d a b : RegIdx) (s : State), let S := s.snapshotOf (.div d a b)
    S[b].toInt ≠ 0 → ∃ t, exec (.div d a b) s = .next t ∧
      Succeeded s t [(d, BitVec.ofInt 32 (Int.tdiv (S[a].toInt * 2 ^ 24) S[b].toInt))]) ∧
  (∀ (d a b : RegIdx) (s : State), (s.snapshotOf (.div d a b))[b] = 0#32 →
    ∃ t, exec (.div d a b) s = .next t ∧ Failed s t .divZero (s.wordOf (.div d a b))) ∧
  CmdError.divZero.code = 4#4 ∧
  (∀ w : Word, opcField w = 0x05#8 →
    decode w = if zField w = 0#9 then .ok (.div (dField w) (aField w) (bField w)) else .error .reservedBits) ∧
  fdiv 0x01000000#32 0x03000000#32 = 0x00555555#32 ∧ fdiv 0xFF000000#32 0x03000000#32 = 0xFFAAAAAB#32 ∧
  fdiv 0x01000000#32 0xFD000000#32 = 0xFFAAAAAB#32 ∧ fdiv 0xFF000000#32 0xFD000000#32 = 0x00555555#32 ∧
  fdiv 0x64000000#32 0x00800000#32 = 0xC8000000#32 ∧ fdiv 0x80000000#32 0xFFFFFFFF#32 = 0x00000000#32 ∧
  (∀ y : Word, fdiv y 0x00000001#32 = y.extractLsb' 0 8 ++ 0#24) ∧ (∀ y : Word, y ≠ 0#32 → fdiv 0#32 y = 0#32) ∧
  fdiv 0x01000000#32 0x00800000#32 = 0x02000000#32

/-- 41_scalar.md R106, with the equal form in bits 7:0 that the rule marks as derived from the definition of `wrap32`
(00_scope.md R9). -/
def Obligations.FromintWritesTheShiftedInteger : Prop :=
  (∀ (d a : RegIdx) (s : State), let S := s.snapshotOf (.fromint d a)
    ∃ t, exec (.fromint d a) s = .next t ∧ Succeeded s t [(d, BitVec.ofInt 32 (S[a].toInt * 2 ^ 24))]) ∧
  (∀ w : Word, opcField w = 0x06#8 →
    decode w = if zField w = 0#9 ∧ bField w = 0 then .ok (.fromint (dField w) (aField w))
      else .error .reservedBits) ∧
  (∀ x : Word, BitVec.ofInt 32 (x.toInt * 2 ^ 24) = x.extractLsb' 0 8 ++ 0#24) ∧
  (∀ x : Word, -128 ≤ x.toInt → x.toInt ≤ 127 → (fromInt x).toInt = x.toInt * 2 ^ 24) ∧
  fromInt 128#32 = 0x80000000#32 ∧ fromInt (-129#32) = 0x7F000000#32 ∧ fromInt 0x12345678#32 = 0x78000000#32 ∧
  fromInt 0xFFFFFFFF#32 = 0xFF000000#32

/-- 41_scalar.md R107: two truncating divisions, or the error SCALE_ZERO with no register written. -/
def Obligations.TointsWritesTheScaledInteger : Prop :=
  (∀ (d a b : RegIdx) (s : State), let S := s.snapshotOf (.toints d a b)
    S[b].toInt ≠ 0 → Int.tdiv (2 ^ 24) S[b].toInt ≠ 0 → ∃ t, exec (.toints d a b) s = .next t ∧
      Succeeded s t [(d, BitVec.ofInt 32 (Int.tdiv S[a].toInt (Int.tdiv (2 ^ 24) S[b].toInt)))]) ∧
  (∀ (d a b : RegIdx) (s : State), let S := s.snapshotOf (.toints d a b)
    (S[b].toInt = 0 ∨ 2 ^ 24 < S[b].toInt.natAbs) →
    ∃ t, exec (.toints d a b) s = .next t ∧ Failed s t .scaleZero (s.wordOf (.toints d a b))) ∧
  CmdError.scaleZero.code = 5#4 ∧
  (∀ x : Word, x.toInt ≠ 0 → (Int.tdiv (2 ^ 24) x.toInt = 0 ↔ 2 ^ 24 < x.toInt.natAbs)) ∧
  (∀ w : Word, opcField w = 0x07#8 →
    decode w = if zField w = 0#9 then .ok (.toints (dField w) (aField w) (bField w)) else .error .reservedBits) ∧
  (∀ x : Word, x.toInt ≠ 0 → (scaleDivisor x * x.toInt = 2 ^ 24 ↔ x.toInt ∣ 2 ^ 24)) ∧
  scaleDivisor 1000#32 = 16777 ∧
  (∀ n : Word, toIntScaled n 1#32 = BitVec.ofInt 32 (Int.tdiv n.toInt (2 ^ 24))) ∧
  toIntScaled 0x00FFFFFF#32 1#32 = 0#32 ∧
  (∀ n : Word, toIntScaled n 0x01000000#32 = n) ∧
  (∀ n x : Word, x ≠ 0x80000000#32 → toIntScaled n (fneg x) = fneg (toIntScaled n x)) ∧
  toIntScaled 0x01800000#32 0xFFFFFFFF#32 = 0xFFFFFFFF#32 ∧
  (∀ n x : Word, x.toInt ≠ 0 → scaleDivisor x ≠ 0 →
    ((toIntScaled n x).toInt ≠ Int.tdiv n.toInt (scaleDivisor x) ↔
      (n = 0x80000000#32 ∧ -2 ^ 24 ≤ x.toInt ∧ x.toInt ≤ -(2 ^ 23 + 1)))) ∧
  toIntScaled 0x80000000#32 0xFF000000#32 = 0x80000000#32 ∧
  decode 0x07100200#32 = .ok (.toints 2 0 1) ∧ toIntScaled 0x01800000#32 0x000003E8#32 = 0x000005DC#32

/-! ### Vector3 commands -/

/-- 42_vector.md R131, with R130's `vadd` written out; any overlap of the groups is included. -/
def Obligations.VaddAddsTheComponents : Prop :=
  (∀ (d a b : RegIdx) (s : State), let S := s.snapshotOf (.vadd d a b)
    d.val ≤ 29 → a.val ≤ 29 → b.val ≤ 29 → ∃ t, exec (.vadd d a b) s = .next t ∧
      Succeeded s t [(d, S[a] + S[b]), (d + 1, S[a + 1] + S[b + 1]), (d + 2, S[a + 2] + S[b + 2])]) ∧
  (∀ (d a b : RegIdx) (s : State), (29 < d.val ∨ 29 < a.val ∨ 29 < b.val) →
    ∃ t, exec (.vadd d a b) s = .next t ∧ Failed s t .groupRange (s.wordOf (.vadd d a b))) ∧
  (∀ w : Word, opcField w = 0x10#8 →
    decode w = if zField w ≠ 0#9 then .error .reservedBits
      else if (dField w).val ≤ 29 ∧ (aField w).val ≤ 29 ∧ (bField w).val ≤ 29
        then .ok (.vadd (dField w) (aField w) (bField w)) else .error .groupRange) ∧
  vadd ⟨0x7FFFFFFF#32, 0#32, 0x80000000#32⟩ ⟨1#32, 0#32, 0xFFFFFFFF#32⟩ = ⟨0x80000000#32, 0#32, 0x7FFFFFFF#32⟩ ∧
  vadd ⟨1#32, 2#32, 3#32⟩ ⟨1#32, 2#32, 3#32⟩ = ⟨2#32, 4#32, 6#32⟩ ∧
  vadd ⟨0x01000000#32, 0x02000000#32, 0x03000000#32⟩ ⟨0x04000000#32, 0x05000000#32, 0x06000000#32⟩ =
    ⟨0x05000000#32, 0x07000000#32, 0x09000000#32⟩

/-- 42_vector.md R132: the scalar operand is never range-checked and may lie inside a group. -/
def Obligations.VscaleScalesTheComponents : Prop :=
  (∀ (d a b : RegIdx) (s : State), let S := s.snapshotOf (.vscale d a b)
    d.val ≤ 29 → a.val ≤ 29 → ∃ t, exec (.vscale d a b) s = .next t ∧
      Succeeded s t [(d, fmul S[a] S[b]), (d + 1, fmul S[a + 1] S[b]), (d + 2, fmul S[a + 2] S[b])]) ∧
  (∀ (d a b : RegIdx) (s : State), (29 < d.val ∨ 29 < a.val) →
    ∃ t, exec (.vscale d a b) s = .next t ∧ Failed s t .groupRange (s.wordOf (.vscale d a b))) ∧
  (∀ w : Word, opcField w = 0x11#8 →
    decode w = if zField w ≠ 0#9 then .error .reservedBits
      else if (dField w).val ≤ 29 ∧ (aField w).val ≤ 29
        then .ok (.vscale (dField w) (aField w) (bField w)) else .error .groupRange) ∧
  vscale ⟨0xFFFFFFFF#32, 1#32, 0x10000000#32⟩ 0x00800000#32 = ⟨0xFFFFFFFF#32, 0#32, 0x08000000#32⟩ ∧
  vscale ⟨0x01000000#32, 0x02000000#32, 0x03000000#32⟩ 0xFF000000#32 = ⟨0xFF000000#32, 0xFE000000#32, 0xFD000000#32⟩

/-- 42_vector.md R133: the scalar destination is never range-checked. -/
def Obligations.VdotWritesTheDotProduct : Prop :=
  (∀ (d a b : RegIdx) (s : State), let S := s.snapshotOf (.vdot d a b)
    a.val ≤ 29 → b.val ≤ 29 → ∃ t, exec (.vdot d a b) s = .next t ∧
      Succeeded s t [(d, fmul S[a] S[b] + fmul S[a + 1] S[b + 1] + fmul S[a + 2] S[b + 2])]) ∧
  (∀ (d a b : RegIdx) (s : State), (29 < a.val ∨ 29 < b.val) →
    ∃ t, exec (.vdot d a b) s = .next t ∧ Failed s t .groupRange (s.wordOf (.vdot d a b))) ∧
  (∀ w : Word, opcField w = 0x12#8 →
    decode w = if zField w ≠ 0#9 then .error .reservedBits
      else if (aField w).val ≤ 29 ∧ (bField w).val ≤ 29
        then .ok (.vdot (dField w) (aField w) (bField w)) else .error .groupRange) ∧
  vdot ⟨0x08000000#32, 0x08000000#32, 0#32⟩ ⟨0x08000000#32, 0x08000000#32, 0#32⟩ = 0x80000000#32 ∧
  vdot ⟨1#32, 1#32, 1#32⟩ ⟨0x00800000#32, 0x00800000#32, 0x00800000#32⟩ = 0#32 ∧
  vdot ⟨0x01000000#32, 0x02000000#32, 0x03000000#32⟩ ⟨0x04000000#32, 0x05000000#32, 0x06000000#32⟩ = 0x20000000#32

/-- 42_vector.md R134: computed entirely from the pre-command values. -/
def Obligations.VcrossWritesTheCrossProduct : Prop :=
  (∀ (d a b : RegIdx) (s : State), let S := s.snapshotOf (.vcross d a b)
    d.val ≤ 29 → a.val ≤ 29 → b.val ≤ 29 → ∃ t, exec (.vcross d a b) s = .next t ∧
      Succeeded s t [(d, fmul S[a + 1] S[b + 2] - fmul S[a + 2] S[b + 1]),
        (d + 1, fmul S[a + 2] S[b] - fmul S[a] S[b + 2]),
        (d + 2, fmul S[a] S[b + 1] - fmul S[a + 1] S[b])]) ∧
  (∀ (d a b : RegIdx) (s : State), (29 < d.val ∨ 29 < a.val ∨ 29 < b.val) →
    ∃ t, exec (.vcross d a b) s = .next t ∧ Failed s t .groupRange (s.wordOf (.vcross d a b))) ∧
  (∀ w : Word, opcField w = 0x13#8 →
    decode w = if zField w ≠ 0#9 then .error .reservedBits
      else if (dField w).val ≤ 29 ∧ (aField w).val ≤ 29 ∧ (bField w).val ≤ 29
        then .ok (.vcross (dField w) (aField w) (bField w)) else .error .groupRange) ∧
  (∀ u : Vec3, vcross u u = ⟨0#32, 0#32, 0#32⟩) ∧
  vcross ⟨0x01000000#32, 0x02000000#32, 0x03000000#32⟩ ⟨0x04000000#32, 0x05000000#32, 0x06000000#32⟩ =
    ⟨0xFD000000#32, 0x06000000#32, 0xFD000000#32⟩

/-! ### Quaternion commands -/

/-- 43_quaternion.md R152: the identity, whatever the snapshot holds. -/
def Obligations.QidWritesTheIdentity : Prop :=
  (∀ (d : RegIdx) (s : State), d.val ≤ 28 → ∃ t, exec (.qid d) s = .next t ∧
    Succeeded s t [(d, 0x01000000#32), (d + 1, 0#32), (d + 2, 0#32), (d + 3, 0#32)]) ∧
  (∀ (d : RegIdx) (s : State), 28 < d.val →
    ∃ t, exec (.qid d) s = .next t ∧ Failed s t .groupRange (s.wordOf (.qid d))) ∧
  (∀ w : Word, opcField w = 0x20#8 →
    decode w = if zField w ≠ 0#9 ∨ aField w ≠ 0 ∨ bField w ≠ 0 then .error .reservedBits
      else if (dField w).val ≤ 28 then .ok (.qid (dField w)) else .error .groupRange) ∧
  fromInt 1#32 = 0x01000000#32 ∧ decode 0x20400000#32 = .ok (.qid 8) ∧ decode 0x20E00000#32 = .ok (.qid 28)

/-- 43_quaternion.md R153, with R150's `qmul` in the component form of R151, which R151 marks as derived from R150 and
42_vector.md R130. -/
def Obligations.QmulWritesTheHamiltonProduct : Prop :=
  (∀ (d a b : RegIdx) (s : State), let S := s.snapshotOf (.qmul d a b)
    d.val ≤ 28 → a.val ≤ 28 → b.val ≤ 28 → ∃ t, exec (.qmul d a b) s = .next t ∧
      Succeeded s t
        [(d, fmul S[a] S[b] - fmul S[a + 1] S[b + 1] - fmul S[a + 2] S[b + 2] - fmul S[a + 3] S[b + 3]),
         (d + 1, (fmul S[a + 2] S[b + 3] - fmul S[a + 3] S[b + 2]) + fmul S[b + 1] S[a] + fmul S[a + 1] S[b]),
         (d + 2, (fmul S[a + 3] S[b + 1] - fmul S[a + 1] S[b + 3]) + fmul S[b + 2] S[a] + fmul S[a + 2] S[b]),
         (d + 3, (fmul S[a + 1] S[b + 2] - fmul S[a + 2] S[b + 1]) + fmul S[b + 3] S[a] + fmul S[a + 3] S[b])]) ∧
  (∀ (d a b : RegIdx) (s : State), (28 < d.val ∨ 28 < a.val ∨ 28 < b.val) →
    ∃ t, exec (.qmul d a b) s = .next t ∧ Failed s t .groupRange (s.wordOf (.qmul d a b))) ∧
  (∀ w : Word, opcField w = 0x21#8 →
    decode w = if zField w ≠ 0#9 then .error .reservedBits
      else if (dField w).val ≤ 28 ∧ (aField w).val ≤ 28 ∧ (bField w).val ≤ 28
        then .ok (.qmul (dField w) (aField w) (bField w)) else .error .groupRange) ∧
  qmul ⟨0#32, 0x01000000#32, 0#32, 0#32⟩ ⟨0#32, 0#32, 0x01000000#32, 0#32⟩ = ⟨0#32, 0#32, 0#32, 0x01000000#32⟩ ∧
  qmul ⟨0#32, 0#32, 0x01000000#32, 0#32⟩ ⟨0#32, 0x01000000#32, 0#32, 0#32⟩ = ⟨0#32, 0#32, 0#32, 0xFF000000#32⟩ ∧
  qmul ⟨0#32, 0x01000000#32, 0#32, 0#32⟩ ⟨0#32, 0x01000000#32, 0#32, 0#32⟩ = ⟨0xFF000000#32, 0#32, 0#32, 0#32⟩ ∧
  qmul ⟨0x40000000#32, 0x40000000#32, 0#32, 0#32⟩ ⟨0x40000000#32, 0x40000000#32, 0#32, 0#32⟩ =
    ⟨0#32, 0#32, 0#32, 0#32⟩ ∧
  qmul ⟨0x01000000#32, 0x02000000#32, 0x03000000#32, 0x04000000#32⟩
      ⟨0x05000000#32, 0x06000000#32, 0x07000000#32, 0x08000000#32⟩ =
    ⟨0xC4000000#32, 0x0C000000#32, 0x1E000000#32, 0x18000000#32⟩ ∧
  qmul ⟨0x05000000#32, 0x06000000#32, 0x07000000#32, 0x08000000#32⟩
      ⟨0x01000000#32, 0x02000000#32, 0x03000000#32, 0x04000000#32⟩ =
    ⟨0xC4000000#32, 0x14000000#32, 0x0E000000#32, 0x20000000#32⟩

/-- 43_quaternion.md R154, with R150's `qrot` written out: the doubled cross product `T` is rounded as R150 orders. -/
def Obligations.QrotWritesTheRotatedVector : Prop :=
  (∀ (d a b : RegIdx) (s : State), let S := s.snapshotOf (.qrot d a b)
    let T := vdouble (vcross ⟨S[a + 1], S[a + 2], S[a + 3]⟩ ⟨S[b], S[b + 1], S[b + 2]⟩)
    d.val ≤ 29 → a.val ≤ 28 → b.val ≤ 29 → ∃ t, exec (.qrot d a b) s = .next t ∧
      Succeeded s t
        [(d, S[b] + fmul T.x S[a] + (fmul S[a + 2] T.z - fmul S[a + 3] T.y)),
         (d + 1, S[b + 1] + fmul T.y S[a] + (fmul S[a + 3] T.x - fmul S[a + 1] T.z)),
         (d + 2, S[b + 2] + fmul T.z S[a] + (fmul S[a + 1] T.y - fmul S[a + 2] T.x))]) ∧
  (∀ (d a b : RegIdx) (s : State), (29 < d.val ∨ 28 < a.val ∨ 29 < b.val) →
    ∃ t, exec (.qrot d a b) s = .next t ∧ Failed s t .groupRange (s.wordOf (.qrot d a b))) ∧
  (∀ w : Word, opcField w = 0x22#8 →
    decode w = if zField w ≠ 0#9 then .error .reservedBits
      else if (dField w).val ≤ 29 ∧ (aField w).val ≤ 28 ∧ (bField w).val ≤ 29
        then .ok (.qrot (dField w) (aField w) (bField w)) else .error .groupRange) ∧
  (∀ c : Vec3, vdouble c = ⟨c.x + c.x, c.y + c.y, c.z + c.z⟩) ∧
  qrot ⟨0#32, 0x02000000#32, 0#32, 0#32⟩ ⟨0#32, 0x01000000#32, 0#32⟩ = ⟨0#32, 0xF9000000#32, 0#32⟩ ∧
  (∃ w x y z : Word, ∃ v : Vec3, qrot ⟨w, x, y, z⟩ v ≠ qrot ⟨fneg w, fneg x, fneg y, fneg z⟩ v) ∧
  (∀ v : Vec3, qrot ⟨0x01000000#32, 0#32, 0#32, 0#32⟩ v = v) ∧
  decode 0x22600800#32 = .ok (.qrot 12 0 4) ∧
  vcross ⟨0#32, 0#32, 0x00B504F3#32⟩ ⟨0x01000000#32, 0#32, 0#32⟩ = ⟨0#32, 0x00B504F3#32, 0#32⟩ ∧
  vdouble ⟨0#32, 0x00B504F3#32, 0#32⟩ = ⟨0#32, 0x016A09E6#32, 0#32⟩ ∧
  vscale ⟨0#32, 0x016A09E6#32, 0#32⟩ 0x00B504F3#32 = ⟨0#32, 0x00FFFFFF#32, 0#32⟩ ∧
  vcross ⟨0#32, 0#32, 0x00B504F3#32⟩ ⟨0#32, 0x016A09E6#32, 0#32⟩ = ⟨0xFF000001#32, 0#32, 0#32⟩ ∧
  qrot ⟨0x00B504F3#32, 0#32, 0#32, 0x00B504F3#32⟩ ⟨0x01000000#32, 0#32, 0#32⟩ = ⟨0x00000001#32, 0x00FFFFFF#32, 0#32⟩

/-! ### The number format -/

/-- 41_scalar.md R100: the five functions by their exact values, and the ranges of the two intermediates. -/
def Obligations.ScalarFunctionsAreExactThenWrapped : Prop :=
  ∀ a b : Word,
    (∃ k, (fadd a b).toInt = a.toInt + b.toInt + k * 2 ^ 32) ∧
    (∃ k, (fsub a b).toInt = a.toInt - b.toInt + k * 2 ^ 32) ∧
    (∃ k, (fneg a).toInt = -a.toInt + k * 2 ^ 32) ∧
    (∃ q k, q * 2 ^ 24 ≤ a.toInt * b.toInt ∧ a.toInt * b.toInt < (q + 1) * 2 ^ 24 ∧
      (fmul a b).toInt = q + k * 2 ^ 32) ∧
    (b.toInt ≠ 0 → ∃ q k, (q.natAbs = (a.toInt * 2 ^ 24).natAbs / b.toInt.natAbs) ∧
      (0 ≤ a.toInt * b.toInt → 0 ≤ q) ∧ (a.toInt * b.toInt ≤ 0 → q ≤ 0) ∧ (fdiv a b).toInt = q + k * 2 ^ 32) ∧
    (-2 ^ 62 + 2 ^ 31 ≤ a.toInt * b.toInt ∧ a.toInt * b.toInt ≤ 2 ^ 62) ∧
    (-2 ^ 55 ≤ a.toInt * 2 ^ 24 ∧ a.toInt * 2 ^ 24 ≤ 2 ^ 55 - 2 ^ 24)

/-- 41_scalar.md R109: multiplication at every sign combination. -/
def Obligations.MulFloorsAtEverySign : Prop :=
  (∀ a b : Word, fmul a b = BitVec.ofInt 32 (Int.floor ((a.toInt * b.toInt : ℚ) / 2 ^ 24))) ∧
  (∀ a b : Word, 0 ≤ a.toInt * b.toInt → fmul a b = BitVec.ofInt 32 (Int.tdiv (a.toInt * b.toInt) (2 ^ 24))) ∧
  (∀ a b : Word, a.toInt * b.toInt < 0 → a.toInt * b.toInt % 2 ^ 24 ≠ 0 →
    fmul a b = BitVec.ofInt 32 (Int.tdiv (a.toInt * b.toInt) (2 ^ 24) - 1)) ∧
  (∀ a b : Word, a ≠ 0x80000000#32 →
    (fmul a b ≠ fneg (fmul (fneg a) b) ↔ a.toInt * b.toInt % 2 ^ 24 ≠ 0)) ∧
  fmul 0xFFFFFFFD#32 0x00800000#32 = 0xFFFFFFFE#32 ∧ fmul 0x00000003#32 0x00800000#32 = 0x00000001#32 ∧
  (∀ a : Word, fmul a 0#32 = 0#32)

/-- 41_scalar.md R110: division at every sign combination and at zero. -/
def Obligations.DivCommutesWithNegation : Prop :=
  (∀ a b : Word, b ≠ 0#32 → a ≠ 0x80000000#32 → fdiv (fneg a) b = fneg (fdiv a b)) ∧
  (∀ a b : Word, b ≠ 0#32 → b ≠ 0x80000000#32 → fdiv a (fneg b) = fneg (fdiv a b)) ∧
  (∀ b : Word, b ≠ 0#32 → fdiv 0#32 b = 0#32) ∧
  (∀ (d a b : RegIdx) (s : State), (s.snapshotOf (.div d a b))[b] = 0#32 →
    ∃ t, exec (.div d a b) s = .next t ∧ Failed s t .divZero (s.wordOf (.div d a b)))

/-- 41_scalar.md R111: the precision of each function when the exact result is in range, in units of 2^-48 for the
product and of the divisor for the quotient. -/
def Obligations.RoundingErrorIsBelowOneUlp : Prop :=
  ∀ a b : Word,
    (-2 ^ 31 ≤ a.toInt + b.toInt → a.toInt + b.toInt < 2 ^ 31 → (fadd a b).toInt = a.toInt + b.toInt) ∧
    (-2 ^ 31 ≤ a.toInt - b.toInt → a.toInt - b.toInt < 2 ^ 31 → (fsub a b).toInt = a.toInt - b.toInt) ∧
    (-2 ^ 31 < a.toInt → (fneg a).toInt = -a.toInt) ∧
    (-2 ^ 55 ≤ a.toInt * b.toInt → a.toInt * b.toInt < 2 ^ 55 →
      0 ≤ a.toInt * b.toInt - (fmul a b).toInt * 2 ^ 24 ∧
      a.toInt * b.toInt - (fmul a b).toInt * 2 ^ 24 < 2 ^ 24) ∧
    (b.toInt ≠ 0 → -2 ^ 31 ≤ Int.tdiv (a.toInt * 2 ^ 24) b.toInt → Int.tdiv (a.toInt * 2 ^ 24) b.toInt < 2 ^ 31 →
      ((fdiv a b).toInt * b.toInt).natAbs ≤ (a.toInt * 2 ^ 24).natAbs ∧
      (a.toInt * 2 ^ 24 - (fdiv a b).toInt * b.toInt).natAbs < b.toInt.natAbs)

/-- 42_vector.md R130's derived sentence: the order in which the three products of `vdot` are added does not change
the result. -/
def Obligations.DotProductOrderDoesNotMatter : Prop :=
  ∀ u v : Vec3,
    vdot u v = fadd (fmul u.x v.x) (fadd (fmul u.y v.y) (fmul u.z v.z)) ∧
    vdot u v = fadd (fadd (fmul u.z v.z) (fmul u.x v.x)) (fmul u.y v.y) ∧
    vdot u v = fadd (fadd (fmul u.y v.y) (fmul u.x v.x)) (fmul u.z v.z)

/-- 42_vector.md R136: the exact symmetries, and the error bounds where no product and no sum wraps, in units of
2^-48. -/
def Obligations.VectorSymmetriesAndErrorBounds : Prop :=
  (∀ u v : Vec3, vdot u v = vdot v u) ∧
  (∀ u v : Vec3, vcross u v = ⟨fneg (vcross v u).x, fneg (vcross v u).y, fneg (vcross v u).z⟩) ∧
  (∀ u v : Vec3,
    let p := u.x.toInt * v.x.toInt
    let q := u.y.toInt * v.y.toInt
    let r := u.z.toInt * v.z.toInt
    (-2 ^ 31 : Int) ≤ p / 2 ^ 24 + q / 2 ^ 24 + r / 2 ^ 24 → p / 2 ^ 24 + q / 2 ^ 24 + r / 2 ^ 24 < 2 ^ 31 →
    0 ≤ p + q + r - (vdot u v).toInt * 2 ^ 24 ∧ p + q + r - (vdot u v).toInt * 2 ^ 24 < 3 * 2 ^ 24) ∧
  (∀ x1 y2 y1 x2 : Word,
    let p := x1.toInt * y2.toInt
    let q := y1.toInt * x2.toInt
    (-2 ^ 31 : Int) ≤ p / 2 ^ 24 - q / 2 ^ 24 → p / 2 ^ 24 - q / 2 ^ 24 < 2 ^ 31 →
    ((p - q) - (fsub (fmul x1 y2) (fmul y1 x2)).toInt * 2 ^ 24).natAbs < 2 ^ 24)

/-- 43_quaternion.md R150's derived sentence and the evaluation order it fixes: doubling is multiplication by
`fromInt(2)` bit for bit, and the two evaluation-order vectors of 95_test_vectors.md come out as the rule gives
them. -/
def Obligations.QrotDoublesBeforeRounding : Prop :=
  (∀ c : Word, double c = fmul c 0x02000000#32) ∧
  (∀ (q : Quat) (v : Vec3), qrot q v =
    vadd (vadd v (vscale (vscale (vcross q.v v) 0x02000000#32) q.w))
      (vcross q.v (vscale (vcross q.v v) 0x02000000#32))) ∧
  qrot ⟨0x00B504F3#32, 0#32, 0#32, 0x00B504F3#32⟩ ⟨0x01000000#32, 0#32, 0#32⟩ = ⟨0x00000001#32, 0x00FFFFFF#32, 0#32⟩ ∧
  qrot ⟨0x00FFAE18#32, 0x000CCB6F#32, 0#32, 0#32⟩ ⟨0#32, 0x00D5013F#32, 0x008E00D5#32⟩ =
    ⟨0#32, 0x00C5C39A#32, 0x00A28F0E#32⟩

/-- 43_quaternion.md R151: the component form of `qmul`. -/
def Obligations.HamiltonProductComponents : Prop :=
  ∀ w1 x1 y1 z1 w2 x2 y2 z2 : Word,
    qmul ⟨w1, x1, y1, z1⟩ ⟨w2, x2, y2, z2⟩ =
      ⟨fmul w1 w2 - fmul x1 x2 - fmul y1 y2 - fmul z1 z2,
       (fmul y1 z2 - fmul z1 y2) + fmul x2 w1 + fmul x1 w2,
       (fmul z1 x2 - fmul x1 z2) + fmul y2 w1 + fmul y1 w2,
       (fmul x1 y2 - fmul y1 x2) + fmul z2 w1 + fmul z1 w2⟩

/-- 43_quaternion.md R155: the identity laws, exact for every input. -/
def Obligations.IdentityQuaternionLaws : Prop :=
  (∀ q : Quat, qmul ⟨0x01000000#32, 0#32, 0#32, 0#32⟩ q = q) ∧
  (∀ q : Quat, qmul q ⟨0x01000000#32, 0#32, 0#32, 0#32⟩ = q) ∧
  (∀ v : Vec3, qrot ⟨0x01000000#32, 0#32, 0#32, 0#32⟩ v = v)

/-! ### Completion as a whole -/

/-- A command's frame over the whole window: whatever it ends in, every byte of the window outside its destination
registers, STATUS and ERRCMD reads as before, and so does every register outside its destinations (10_state.md R30,
20_memory.md R51, R57). -/
def Obligations.CommandChangesOnlyItsDestination : Prop :=
  ∀ (i : Instr) (s t : State), exec i s = .next t →
    (∀ r : RegIdx, r ∉ writesOf i → t.regs[r] = s.regs[r]) ∧
    (∀ off : BitVec 8, (∀ r ∈ writesOf i, windowReg off ≠ .gpr r) → windowReg off ≠ .status →
      windowReg off ≠ .errcmd → t.windowByte off = s.windowByte off) ∧
    t.ctrlWord = s.ctrlWord ∧ t.turns = s.turns

/-- 60_exceptions.md R177, in the completion of 10_state.md R30: every completion either fails with one of the codes
that the command word can raise, and then is precise (no register written, ERR and DONE set, ECODE and ERRCMD captured
if ERR was 0, BUSY cleared, the slot emptied), or it writes exactly the command's destination registers. -/
def Obligations.CompletionSucceedsOrFailsPrecisely : Prop :=
  ∀ (s t : State) (c : Command), s.inflight = some c → s.EngineNext → step s = .next t →
    (∃ e : CmdError, errorOf c.word e.code ∧ Failed s.popTurn t e c.word) ∨
    (∃ (i : Instr) (ws : List RegWrite), decode c.word = .ok i ∧ ws.map Prod.fst = writesOf i ∧
      Succeeded s.popTurn t ws)

/-- 60_exceptions.md R178: writing 1 to STATUS.ERR clears ERR, ECODE and ERRCMD and restores nothing; while ERR is 1 a
command writes the registers that it writes with ERR = 0, and whether or not it fails the first error is kept and DONE
is set. -/
def Obligations.ErrorIsAcknowledgedByWritingOne : Prop :=
  (∀ (s : State) (v : Word) (rest : List Turn), s.turns = .host (memWrite 0x84#8 v) :: rest → v[2] = true →
    ∃ t, step s = .next t ∧ t.err = false ∧ t.ecode = 0#4 ∧ t.errcmd = 0#32 ∧ t.regs = s.regs ∧
      t.inflight = s.inflight ∧ t.busy = s.busy) ∧
  (∀ (i : Instr) (s : State), s.err = true →
    ∃ t u, exec i s = .next t ∧ exec i s.acknowledgeError = .next u ∧ t.regs = u.regs ∧ t.done = true ∧
      t.err = true ∧ t.ecode = s.ecode ∧ t.errcmd = s.errcmd) ∧
  (∀ (s : State) (c : Command) (e : CmdError), s.inflight = some c → s.EngineNext → s.err = true →
    decode c.word = .error e → ∃ t, step s = .next t ∧ t.err = true ∧ t.ecode = s.ecode ∧ t.errcmd = s.errcmd ∧
      t.done = true)

/-- 20_memory.md R61: after a completion a host read of a destination register returns the command's result. -/
def Obligations.ResultIsReadAfterCompletion : Prop :=
  ∀ (s t : State) (ws : List RegWrite) (p : RegWrite) (rest : List Turn), Succeeded s t ws → p ∈ ws →
    t.turns = .host (memRead (regOffset p.1)) :: rest →
    ∃ u, step t = .next u ∧ u.reply = some (.data p.2) ∧ u.regs = t.regs

/-! ### The host window -/

/-- 10_state.md R29: acceptance. A write to CMD while BUSY = 0 fills the slot with the word and the registers, sets
BUSY and changes nothing else; while BUSY = 1 it is dropped and sets OVR; CMD reads as 0. -/
def Obligations.CmdWriteAcceptsOrOverruns : Prop :=
  (∀ (s : State) (w : Word) (rest : List Turn), s.turns = .host (memWrite 0x80#8 w) :: rest → s.busy = false →
    step s = .next { s with turns := rest, reply := some .ok, inflight := some ⟨w, s.regs⟩, busy := true }) ∧
  (∀ (s : State) (w : Word) (rest : List Turn), s.turns = .host (memWrite 0x80#8 w) :: rest → s.busy = true →
    step s = .next { s with turns := rest, reply := some .ok, ovr := true }) ∧
  (∀ (s : State) (rest : List Turn), s.turns = .host (memRead 0x80#8) :: rest →
    step s = .next { s with turns := rest, reply := some (.data 0#32) })

/-- 20_memory.md R55, with 70_reset_and_hazards.md R204's free draw for a register that nothing has written: a host
write to a register takes effect while BUSY = 0 and is dropped with OVR set while BUSY = 1; a host read returns the
register at any time and changes nothing of the engine. -/
def Obligations.HostRegisterAccess : Prop :=
  (∀ (s : State) (i : RegIdx) (v : Word) (rest : List Turn), s.turns = .host (memWrite (regOffset i) v) :: rest →
    s.busy = false →
    step s = .next { s with turns := rest, reply := some .ok, regs := s.regs.set i v, written := s.written.set i true }) ∧
  (∀ (s : State) (i : RegIdx) (v : Word) (rest : List Turn), s.turns = .host (memWrite (regOffset i) v) :: rest →
    s.busy = true → step s = .next { s with turns := rest, reply := some .ok, ovr := true }) ∧
  (∀ (s : State) (i : RegIdx) (rest : List Turn), s.turns = .host (memRead (regOffset i)) :: rest →
    s.written[i] = true → step s = .next { s with turns := rest, reply := some (.data s.regs[i]) }) ∧
  (∀ (s : State) (i : RegIdx) (rest : List Turn), s.turns = .host (memRead (regOffset i)) :: rest →
    s.written[i] = false →
    step s = .next { s with
      turns := rest, reply := some (.data (Config.freeRead s.draws)), draws := s.draws + 1 })

/-- 10_state.md R25: STATUS's bits as a read shows them, and the write that clears DONE, ERR with ECODE and ERRCMD, and
OVR where the written bit is 1, and leaves everything else. -/
def Obligations.StatusReadAndWriteOneToClear : Prop :=
  (∀ (s : State) (rest : List Turn), s.turns = .host (memRead 0x84#8) :: rest →
    step s = .next { s with turns := rest, reply := some (.data s.statusWord) }) ∧
  (∀ s : State, s.statusWord[0] = s.busy ∧ s.statusWord[1] = s.done ∧ s.statusWord[2] = s.err ∧
    s.statusWord[3] = s.ovr ∧ s.statusWord.extractLsb' 4 4 = 0#4 ∧ s.statusWord.extractLsb' 8 4 = s.ecode ∧
    s.statusWord.extractLsb' 12 20 = 0#20) ∧
  (∀ (s : State) (v : Word) (rest : List Turn), s.turns = .host (memWrite 0x84#8 v) :: rest →
    step s = .next { s with
      turns := rest
      reply := some .ok
      done := if v[1] then false else s.done
      err := if v[2] then false else s.err
      ecode := if v[2] then 0#4 else s.ecode
      errcmd := if v[2] then 0#32 else s.errcmd
      ovr := if v[3] then false else s.ovr })

/-- 10_state.md R26 and 70_reset_and_hazards.md R202: CTRL, whether or not BUSY = 1. That the soft reset lowers `irq` is
what R202 marks as derived from 10_state.md R33; that it leaves the written marks is 70_reset_and_hazards.md R204. -/
def Obligations.CtrlEnablesAndSoftReset : Prop :=
  (∀ (s : State) (v : Word) (rest : List Turn), s.turns = .host (memWrite 0x88#8 v) :: rest → v[2] = false →
    step s = .next { s with turns := rest, reply := some .ok, ieDone := v[0], ieErr := v[1] }) ∧
  (∀ (s : State) (v : Word) (rest : List Turn), s.turns = .host (memWrite 0x88#8 v) :: rest → v[2] = true →
    ∃ t, step s = .next t ∧ t.inflight = none ∧ t.statusWord = 0#32 ∧ t.ctrlWord = 0#32 ∧ t.errcmd = 0#32 ∧
      t.irq = false ∧ t.regs = s.regs ∧ t.written = s.written ∧ t.turns = rest ∧ t.reply = some .ok ∧
      t.draws = s.draws) ∧
  (∀ (s : State) (rest : List Turn), s.turns = .host (memRead 0x88#8) :: rest →
    step s = .next { s with turns := rest, reply := some (.data s.ctrlWord) }) ∧
  (∀ s : State, s.ctrlWord[0] = s.ieDone ∧ s.ctrlWord[1] = s.ieErr ∧ s.ctrlWord.extractLsb' 2 30 = 0#30)

/-- 20_memory.md R51 and R56, 10_state.md R27, R28: ERRCMD, ID and the reserved offsets read as the map says, and
writes to them do nothing. -/
def Obligations.ReadOnlyAndReservedOffsets : Prop :=
  (∀ (s : State) (rest : List Turn), s.turns = .host (memRead 0x8C#8) :: rest →
    step s = .next { s with turns := rest, reply := some (.data s.errcmd) }) ∧
  (∀ (s : State) (rest : List Turn), s.turns = .host (memRead 0x90#8) :: rest →
    step s = .next { s with turns := rest, reply := some (.data 0x01202018#32) }) ∧
  (∀ (s : State) (off : BitVec 8) (rest : List Turn), s.turns = .host (memRead off) :: rest → off.toNat % 4 = 0 →
    0x94 ≤ off.toNat → step s = .next { s with turns := rest, reply := some (.data 0#32) }) ∧
  (∀ (s : State) (off : BitVec 8) (v : Word) (rest : List Turn), s.turns = .host (memWrite off v) :: rest →
    off.toNat % 4 = 0 → 0x8C ≤ off.toNat → step s = .next { s with turns := rest, reply := some .ok })

/-- 20_memory.md R53: any access but an aligned 32-bit one with all four lanes is answered with BusError and changes no
state, and an access of that form is answered otherwise. -/
def Obligations.UnsupportedAccessIsABusError : Prop :=
  (∀ (s : State) (t : Transaction) (rest : List Turn), s.turns = .host t :: rest →
    (t.size ≠ 4 ∨ t.off.toNat % 4 ≠ 0 ∨ ∃ lanes v, t.access = .write lanes v ∧ lanes ≠ 0b1111#4) →
    step s = .next { s with turns := rest, reply := some .busError }) ∧
  (∀ (s : State) (t : Transaction) (rest : List Turn), s.turns = .host t :: rest → t.size = 4 →
    t.off.toNat % 4 = 0 → (∀ lanes v, t.access = .write lanes v → lanes = 0b1111#4) →
    ∃ u, step s = .next u ∧ (u.reply = some .ok ∨ ∃ v, u.reply = some (.data v)))

/-- No read anywhere in the window changes anything of the engine (20_memory.md R56). -/
def Obligations.ReadsHaveNoSideEffect : Prop :=
  ∀ (s : State) (t : Transaction) (rest : List Turn), s.turns = .host t :: rest → t.access = .read →
    ∃ u, step s = .next u ∧
      ({ u with turns := s.turns, reply := s.reply, draws := s.draws } : State) = s

/-- 60_exceptions.md R180: what `irq` is, and that its sources are cleared only by the host's write of 1 to their bit or
by a reset. -/
def Obligations.InterruptSourcesAreSticky : Prop :=
  (∀ s : State, s.irq = true ↔ (s.ieDone = true ∧ s.done = true) ∨ (s.ieErr = true ∧ (s.err = true ∨ s.ovr = true))) ∧
  (∀ s t : State, step s = .next t → s.done = true → t.done = false →
    ∃ u rest, s.turns = u :: rest ∧ (u.clearsStatusBit 1 = true ∨ u.resets = true)) ∧
  (∀ s t : State, step s = .next t → s.err = true → t.err = false →
    ∃ u rest, s.turns = u :: rest ∧ (u.clearsStatusBit 2 = true ∨ u.resets = true)) ∧
  (∀ s t : State, step s = .next t → s.ovr = true → t.ovr = false →
    ∃ u rest, s.turns = u :: rest ∧ (u.clearsStatusBit 3 = true ∨ u.resets = true))

/-- 60_exceptions.md R174: OVR is set only by a host write dropped because BUSY = 1, and that write changes no register,
no error record and not the command in flight. -/
def Obligations.OverrunRecordsOnlyADroppedWrite : Prop :=
  (∀ s t : State, step s = .next t → s.ovr = false → t.ovr = true →
    ∃ u rest, s.turns = .host u :: rest ∧ u.dropped = true ∧ s.busy = true) ∧
  (∀ (s : State) (u : Transaction) (rest : List Turn), s.turns = .host u :: rest → u.dropped = true →
    s.busy = true → step s = .next { s with turns := rest, reply := some .ok, ovr := true })

/-- 20_memory.md R63: nothing changes a command already accepted: a step leaves the slot as it is, unless it is the
engine's own completion or a reset. -/
def Obligations.AcceptedCommandIsFixed : Prop :=
  ∀ (s t : State) (c : Command), s.Consistent → s.inflight = some c → step s = .next t →
    t.inflight = some c ∨ s.EngineNext ∨ ∃ u rest, s.turns = u :: rest ∧ u.resets = true

/-- 70_reset_and_hazards.md R211: a host that issues ADD rd, ra, rb and writes a register at once has its write performed
in the run where the completion comes first and dropped in the run where it comes second; both runs exist. -/
def Obligations.UnpolledWriteHasTwoRuns : Prop :=
  ∀ (s : State) (d a b : RegIdx) (v : Word), s.inflight = none → s.busy = false → s.ovr = false →
    (∃ s1 s2 t,
      step { s with turns :=
        [.host (memWrite 0x80#8 (encode (.add d a b))), .engine, .host (memWrite (regOffset d) v)] } = .next s1 ∧
      step s1 = .next s2 ∧ step s2 = .next t ∧ t.regs[d] = v ∧ t.ovr = false ∧ t.inflight = none) ∧
    (∃ s1 s2 t,
      step { s with turns :=
        [.host (memWrite 0x80#8 (encode (.add d a b))), .host (memWrite (regOffset d) v), .engine] } = .next s1 ∧
      step s1 = .next s2 ∧ step s2 = .next t ∧ t.regs[d] = s.regs[a] + s.regs[b] ∧ t.ovr = true ∧
      t.inflight = none)

/-- 10_state.md R22, 20_memory.md R54: the registers of a group do not wrap, and a word is its four byte lanes, the
lowest bits in lane 0. -/
def Obligations.GroupsAndByteLanes : Prop :=
  (∀ (S : RegFile) (b : Nat) (h : b ≤ 29),
    vectorAt S ⟨b, by omega⟩ = ⟨S[b]'(by omega), S[b + 1]'(by omega), S[b + 2]'(by omega)⟩) ∧
  (∀ (S : RegFile) (b : Nat) (h : b ≤ 28),
    quatAt S ⟨b, by omega⟩ =
      ⟨S[b]'(by omega), S[b + 1]'(by omega), S[b + 2]'(by omega), S[b + 3]'(by omega)⟩) ∧
  (∀ w : Word, byteLane w 3 ++ byteLane w 2 ++ byteLane w 1 ++ byteLane w 0 = w)

/-! ### The end of a run -/

/-- 70_reset_and_hazards.md R214, over the turns of log 1: a run has ended exactly when no access of the host is left and
the slot is empty, so not while a command is in flight; every run ends, within as many steps as there are turns and one
more; its end state is the register file, STATUS, CTRL and ERRCMD at that point, the same however many steps are allowed
after it; and turns of the engine or the platform that come after the end, a hardware reset too, do not change it
(log 18). -/
def Obligations.RunEndsAfterTheLastAccess : Prop :=
  (∀ s : State, s.ended = true ↔ (∀ t : Transaction, Turn.host t ∉ s.turns) ∧ s.inflight = none) ∧
  (∀ (s : State) (c : Command), s.inflight = some c → s.ended = false) ∧
  (∀ s : State, ∃ t, runToEnd (s.turns.length + 1) s = .next t ∧ t.ended = true) ∧
  (∀ (s t : State) (j k : Nat), runToEnd j s = .next t → t.ended = true → j ≤ k → runToEnd k s = .next t) ∧
  (∀ s : State, s.endState = ⟨s.regs, s.statusWord, s.ctrlWord, s.errcmd⟩) ∧
  (∀ (s : State) (extra : List Turn) (k : Nat), s.ended = true → (∀ t : Transaction, Turn.host t ∉ extra) →
    ∃ t, runToEnd k { s with turns := s.turns ++ extra } = .next t ∧ t.endState = s.endState)
end

