-- ==== Sys2Proof/Laws/Fixed.lean ====
section
/-! SUPPORT. The scalar functions of 41_scalar.md R100 as arithmetic on words, and the first laws of `fmul`. -/

namespace Sys2Proof.Machine

@[simp] theorem wrap32_sint32 (a : Word) : wrap32 (sint32 a) = a := by
  simp [wrap32, sint32]

theorem sint32_wrap32 (v : Int) : sint32 (wrap32 v) = v.bmod (2 ^ 32) := by
  simp [wrap32, sint32]

theorem wrap32_add (x y : Int) : wrap32 (x + y) = wrap32 x + wrap32 y := by
  simp [wrap32, BitVec.ofInt_add]

theorem wrap32_mul (x y : Int) : wrap32 (x * y) = wrap32 x * wrap32 y := by
  simp [wrap32, BitVec.ofInt_mul]

theorem wrap32_neg (x : Int) : wrap32 (-x) = -wrap32 x := by
  simp [wrap32, BitVec.ofInt_neg]

/-- Two integers give one word exactly when they agree modulo 2^32. -/
theorem wrap32_eq_iff (x y : Int) : wrap32 x = wrap32 y ↔ x % 2 ^ 32 = y % 2 ^ 32 := by
  rw [← BitVec.toInt_inj]
  simp only [wrap32, BitVec.toInt_ofInt]
  constructor
  · intro h
    have := congrArg (· % ((2 ^ 32 : Nat) : Int)) h
    simp only [Int.bmod_emod] at this
    exact_mod_cast this
  · intro h
    rw [← Int.emod_bmod (x := x), ← Int.emod_bmod (x := y)]
    norm_cast at h ⊢
    rw [h]

theorem fadd_eq (a b : Word) : fadd a b = a + b := by
  simp [fadd, wrap32_add]

theorem fneg_eq (a : Word) : fneg a = -a := by
  simp [fneg, wrap32_neg]

theorem fsub_eq (a b : Word) : fsub a b = a - b := by
  rw [fsub, Int.sub_eq_add_neg, wrap32_add, wrap32_neg, wrap32_sint32, wrap32_sint32, BitVec.sub_eq_add_neg]

theorem double_eq (a : Word) : double a = a + a := by
  rw [double, Int.two_mul, wrap32_add, wrap32_sint32]

theorem fmul_comm (a b : Word) : fmul a b = fmul b a := by
  rw [fmul, fmul, Int.mul_comm]

@[simp] theorem fmul_zero_left (a : Word) : fmul 0#32 a = 0#32 := by
  simp [fmul, asr, sint32, wrap32]

@[simp] theorem fmul_zero_right (a : Word) : fmul a 0#32 = 0#32 := by
  rw [fmul_comm, fmul_zero_left]

@[simp] theorem fmul_one_left (a : Word) : fmul 0x01000000#32 a = a := by
  have h : asr (sint32 0x01000000#32 * sint32 a) Config.fractionBits = sint32 a := by
    have : sint32 0x01000000#32 = 2 ^ 24 := by decide
    rw [this, asr, Config.fractionBits]
    exact Int.mul_ediv_cancel_left _ (by decide)
  rw [fmul, h, wrap32_sint32]

@[simp] theorem fmul_one_right (a : Word) : fmul a 0x01000000#32 = a := by
  rw [fmul_comm, fmul_one_left]

/-- `asr` is the floor of the exact quotient. -/
theorem asr_floor (v : Int) (n : Nat) : asr v n * 2 ^ n ≤ v ∧ v < (asr v n + 1) * 2 ^ n := by
  have hp : (0 : Int) < 2 ^ n := by positivity
  constructor
  · exact Int.ediv_mul_le v hp.ne'
  · exact Int.lt_ediv_add_one_mul_self v hp

/-- The range of `sint32`. -/
theorem sint32_range (a : Word) : -2 ^ 31 ≤ sint32 a ∧ sint32 a < 2 ^ 31 := by
  have h1 := BitVec.le_toInt a
  have h2 := BitVec.toInt_lt (x := a)
  norm_num at h1 h2 ⊢
  exact ⟨by simpa [sint32] using h1, by simpa [sint32] using h2⟩

/-- A word is zero exactly when its value is. -/
theorem sint32_eq_zero (a : Word) : sint32 a = 0 ↔ a = 0#32 := by
  rw [sint32, ← BitVec.toInt_inj]
  simp

end Sys2Proof.Machine
end

