-- ==== Sys2Proof/Laws/State.lean ====
section
/-! SUPPORT. One lemma per field for each update of the state, and for the state after reset. -/

namespace Sys2Proof.Machine.State

/-! ### writeReg -/

@[simp] theorem writeReg_regs (i : RegIdx) (v : Word) (s : State) : (s.writeReg i v).regs = s.regs.set i v := rfl
@[simp] theorem writeReg_inflight (i : RegIdx) (v : Word) (s : State) : (s.writeReg i v).inflight = s.inflight := rfl
@[simp] theorem writeReg_busy (i : RegIdx) (v : Word) (s : State) : (s.writeReg i v).busy = s.busy := rfl
@[simp] theorem writeReg_done (i : RegIdx) (v : Word) (s : State) : (s.writeReg i v).done = s.done := rfl
@[simp] theorem writeReg_err (i : RegIdx) (v : Word) (s : State) : (s.writeReg i v).err = s.err := rfl
@[simp] theorem writeReg_ovr (i : RegIdx) (v : Word) (s : State) : (s.writeReg i v).ovr = s.ovr := rfl
@[simp] theorem writeReg_ecode (i : RegIdx) (v : Word) (s : State) : (s.writeReg i v).ecode = s.ecode := rfl
@[simp] theorem writeReg_ieDone (i : RegIdx) (v : Word) (s : State) : (s.writeReg i v).ieDone = s.ieDone := rfl
@[simp] theorem writeReg_ieErr (i : RegIdx) (v : Word) (s : State) : (s.writeReg i v).ieErr = s.ieErr := rfl
@[simp] theorem writeReg_errcmd (i : RegIdx) (v : Word) (s : State) : (s.writeReg i v).errcmd = s.errcmd := rfl
@[simp] theorem writeReg_written (i : RegIdx) (v : Word) (s : State) : (s.writeReg i v).written = s.written.set i true := rfl
@[simp] theorem writeReg_turns (i : RegIdx) (v : Word) (s : State) : (s.writeReg i v).turns = s.turns := rfl
@[simp] theorem writeReg_reply (i : RegIdx) (v : Word) (s : State) : (s.writeReg i v).reply = s.reply := rfl
@[simp] theorem writeReg_draws (i : RegIdx) (v : Word) (s : State) : (s.writeReg i v).draws = s.draws := rfl

/-! ### recordOverrun -/

@[simp] theorem recordOverrun_regs (s : State) : (s.recordOverrun).regs = s.regs := rfl
@[simp] theorem recordOverrun_inflight (s : State) : (s.recordOverrun).inflight = s.inflight := rfl
@[simp] theorem recordOverrun_busy (s : State) : (s.recordOverrun).busy = s.busy := rfl
@[simp] theorem recordOverrun_done (s : State) : (s.recordOverrun).done = s.done := rfl
@[simp] theorem recordOverrun_err (s : State) : (s.recordOverrun).err = s.err := rfl
@[simp] theorem recordOverrun_ovr (s : State) : (s.recordOverrun).ovr = true := rfl
@[simp] theorem recordOverrun_ecode (s : State) : (s.recordOverrun).ecode = s.ecode := rfl
@[simp] theorem recordOverrun_ieDone (s : State) : (s.recordOverrun).ieDone = s.ieDone := rfl
@[simp] theorem recordOverrun_ieErr (s : State) : (s.recordOverrun).ieErr = s.ieErr := rfl
@[simp] theorem recordOverrun_errcmd (s : State) : (s.recordOverrun).errcmd = s.errcmd := rfl
@[simp] theorem recordOverrun_written (s : State) : (s.recordOverrun).written = s.written := rfl
@[simp] theorem recordOverrun_turns (s : State) : (s.recordOverrun).turns = s.turns := rfl
@[simp] theorem recordOverrun_reply (s : State) : (s.recordOverrun).reply = s.reply := rfl
@[simp] theorem recordOverrun_draws (s : State) : (s.recordOverrun).draws = s.draws := rfl

/-! ### recordError -/

@[simp] theorem recordError_regs (e : CmdError) (w : Word) (s : State) : (s.recordError e w).regs = s.regs := rfl
@[simp] theorem recordError_inflight (e : CmdError) (w : Word) (s : State) : (s.recordError e w).inflight = s.inflight := rfl
@[simp] theorem recordError_busy (e : CmdError) (w : Word) (s : State) : (s.recordError e w).busy = s.busy := rfl
@[simp] theorem recordError_done (e : CmdError) (w : Word) (s : State) : (s.recordError e w).done = s.done := rfl
@[simp] theorem recordError_err (e : CmdError) (w : Word) (s : State) : (s.recordError e w).err = true := rfl
@[simp] theorem recordError_ovr (e : CmdError) (w : Word) (s : State) : (s.recordError e w).ovr = s.ovr := rfl
@[simp] theorem recordError_ecode (e : CmdError) (w : Word) (s : State) : (s.recordError e w).ecode = if s.err then s.ecode else e.code := rfl
@[simp] theorem recordError_ieDone (e : CmdError) (w : Word) (s : State) : (s.recordError e w).ieDone = s.ieDone := rfl
@[simp] theorem recordError_ieErr (e : CmdError) (w : Word) (s : State) : (s.recordError e w).ieErr = s.ieErr := rfl
@[simp] theorem recordError_errcmd (e : CmdError) (w : Word) (s : State) : (s.recordError e w).errcmd = if s.err then s.errcmd else w := rfl
@[simp] theorem recordError_written (e : CmdError) (w : Word) (s : State) : (s.recordError e w).written = s.written := rfl
@[simp] theorem recordError_turns (e : CmdError) (w : Word) (s : State) : (s.recordError e w).turns = s.turns := rfl
@[simp] theorem recordError_reply (e : CmdError) (w : Word) (s : State) : (s.recordError e w).reply = s.reply := rfl
@[simp] theorem recordError_draws (e : CmdError) (w : Word) (s : State) : (s.recordError e w).draws = s.draws := rfl

/-! ### acknowledgeError -/

@[simp] theorem acknowledgeError_regs (s : State) : (s.acknowledgeError).regs = s.regs := rfl
@[simp] theorem acknowledgeError_inflight (s : State) : (s.acknowledgeError).inflight = s.inflight := rfl
@[simp] theorem acknowledgeError_busy (s : State) : (s.acknowledgeError).busy = s.busy := rfl
@[simp] theorem acknowledgeError_done (s : State) : (s.acknowledgeError).done = s.done := rfl
@[simp] theorem acknowledgeError_err (s : State) : (s.acknowledgeError).err = false := rfl
@[simp] theorem acknowledgeError_ovr (s : State) : (s.acknowledgeError).ovr = s.ovr := rfl
@[simp] theorem acknowledgeError_ecode (s : State) : (s.acknowledgeError).ecode = 0#4 := rfl
@[simp] theorem acknowledgeError_ieDone (s : State) : (s.acknowledgeError).ieDone = s.ieDone := rfl
@[simp] theorem acknowledgeError_ieErr (s : State) : (s.acknowledgeError).ieErr = s.ieErr := rfl
@[simp] theorem acknowledgeError_errcmd (s : State) : (s.acknowledgeError).errcmd = 0#32 := rfl
@[simp] theorem acknowledgeError_written (s : State) : (s.acknowledgeError).written = s.written := rfl
@[simp] theorem acknowledgeError_turns (s : State) : (s.acknowledgeError).turns = s.turns := rfl
@[simp] theorem acknowledgeError_reply (s : State) : (s.acknowledgeError).reply = s.reply := rfl
@[simp] theorem acknowledgeError_draws (s : State) : (s.acknowledgeError).draws = s.draws := rfl

/-! ### retire -/

@[simp] theorem retire_regs (s : State) : (s.retire).regs = s.regs := rfl
@[simp] theorem retire_inflight (s : State) : (s.retire).inflight = none := rfl
@[simp] theorem retire_busy (s : State) : (s.retire).busy = false := rfl
@[simp] theorem retire_done (s : State) : (s.retire).done = true := rfl
@[simp] theorem retire_err (s : State) : (s.retire).err = s.err := rfl
@[simp] theorem retire_ovr (s : State) : (s.retire).ovr = s.ovr := rfl
@[simp] theorem retire_ecode (s : State) : (s.retire).ecode = s.ecode := rfl
@[simp] theorem retire_ieDone (s : State) : (s.retire).ieDone = s.ieDone := rfl
@[simp] theorem retire_ieErr (s : State) : (s.retire).ieErr = s.ieErr := rfl
@[simp] theorem retire_errcmd (s : State) : (s.retire).errcmd = s.errcmd := rfl
@[simp] theorem retire_written (s : State) : (s.retire).written = s.written := rfl
@[simp] theorem retire_turns (s : State) : (s.retire).turns = s.turns := rfl
@[simp] theorem retire_reply (s : State) : (s.retire).reply = s.reply := rfl
@[simp] theorem retire_draws (s : State) : (s.retire).draws = s.draws := rfl

/-! ### accept -/

@[simp] theorem accept_regs (w : Word) (s : State) : (s.accept w).regs = s.regs := rfl
@[simp] theorem accept_inflight (w : Word) (s : State) : (s.accept w).inflight = some ⟨w, s.regs⟩ := rfl
@[simp] theorem accept_busy (w : Word) (s : State) : (s.accept w).busy = true := rfl
@[simp] theorem accept_done (w : Word) (s : State) : (s.accept w).done = s.done := rfl
@[simp] theorem accept_err (w : Word) (s : State) : (s.accept w).err = s.err := rfl
@[simp] theorem accept_ovr (w : Word) (s : State) : (s.accept w).ovr = s.ovr := rfl
@[simp] theorem accept_ecode (w : Word) (s : State) : (s.accept w).ecode = s.ecode := rfl
@[simp] theorem accept_ieDone (w : Word) (s : State) : (s.accept w).ieDone = s.ieDone := rfl
@[simp] theorem accept_ieErr (w : Word) (s : State) : (s.accept w).ieErr = s.ieErr := rfl
@[simp] theorem accept_errcmd (w : Word) (s : State) : (s.accept w).errcmd = s.errcmd := rfl
@[simp] theorem accept_written (w : Word) (s : State) : (s.accept w).written = s.written := rfl
@[simp] theorem accept_turns (w : Word) (s : State) : (s.accept w).turns = s.turns := rfl
@[simp] theorem accept_reply (w : Word) (s : State) : (s.accept w).reply = s.reply := rfl
@[simp] theorem accept_draws (w : Word) (s : State) : (s.accept w).draws = s.draws := rfl

/-! ### softReset -/

@[simp] theorem softReset_regs (s : State) : (s.softReset).regs = s.regs := rfl
@[simp] theorem softReset_inflight (s : State) : (s.softReset).inflight = none := rfl
@[simp] theorem softReset_busy (s : State) : (s.softReset).busy = false := rfl
@[simp] theorem softReset_done (s : State) : (s.softReset).done = false := rfl
@[simp] theorem softReset_err (s : State) : (s.softReset).err = false := rfl
@[simp] theorem softReset_ovr (s : State) : (s.softReset).ovr = false := rfl
@[simp] theorem softReset_ecode (s : State) : (s.softReset).ecode = 0#4 := rfl
@[simp] theorem softReset_ieDone (s : State) : (s.softReset).ieDone = false := rfl
@[simp] theorem softReset_ieErr (s : State) : (s.softReset).ieErr = false := rfl
@[simp] theorem softReset_errcmd (s : State) : (s.softReset).errcmd = 0#32 := rfl
@[simp] theorem softReset_written (s : State) : (s.softReset).written = s.written := rfl
@[simp] theorem softReset_turns (s : State) : (s.softReset).turns = s.turns := rfl
@[simp] theorem softReset_reply (s : State) : (s.softReset).reply = s.reply := rfl
@[simp] theorem softReset_draws (s : State) : (s.softReset).draws = s.draws := rfl

/-! ### hardwareReset -/

@[simp] theorem hardwareReset_regs (s : State) : (s.hardwareReset).regs = Vector.replicate 32 Config.resetRegister := rfl
@[simp] theorem hardwareReset_inflight (s : State) : (s.hardwareReset).inflight = none := rfl
@[simp] theorem hardwareReset_busy (s : State) : (s.hardwareReset).busy = false := rfl
@[simp] theorem hardwareReset_done (s : State) : (s.hardwareReset).done = false := rfl
@[simp] theorem hardwareReset_err (s : State) : (s.hardwareReset).err = false := rfl
@[simp] theorem hardwareReset_ovr (s : State) : (s.hardwareReset).ovr = false := rfl
@[simp] theorem hardwareReset_ecode (s : State) : (s.hardwareReset).ecode = 0#4 := rfl
@[simp] theorem hardwareReset_ieDone (s : State) : (s.hardwareReset).ieDone = false := rfl
@[simp] theorem hardwareReset_ieErr (s : State) : (s.hardwareReset).ieErr = false := rfl
@[simp] theorem hardwareReset_errcmd (s : State) : (s.hardwareReset).errcmd = 0#32 := rfl
@[simp] theorem hardwareReset_written (s : State) : (s.hardwareReset).written = Vector.replicate 32 false := rfl
@[simp] theorem hardwareReset_turns (s : State) : (s.hardwareReset).turns = s.turns := rfl
@[simp] theorem hardwareReset_reply (s : State) : (s.hardwareReset).reply = s.reply := rfl
@[simp] theorem hardwareReset_draws (s : State) : (s.hardwareReset).draws = s.draws := rfl

/-! ### reset -/

@[simp] theorem reset_regs : reset.regs = Vector.replicate 32 Config.resetRegister := rfl
@[simp] theorem reset_inflight : reset.inflight = none := rfl
@[simp] theorem reset_busy : reset.busy = false := rfl
@[simp] theorem reset_done : reset.done = false := rfl
@[simp] theorem reset_err : reset.err = false := rfl
@[simp] theorem reset_ovr : reset.ovr = false := rfl
@[simp] theorem reset_ecode : reset.ecode = 0#4 := rfl
@[simp] theorem reset_ieDone : reset.ieDone = false := rfl
@[simp] theorem reset_ieErr : reset.ieErr = false := rfl
@[simp] theorem reset_errcmd : reset.errcmd = 0#32 := rfl
@[simp] theorem reset_written : reset.written = Vector.replicate 32 false := rfl
@[simp] theorem reset_turns : reset.turns = [] := rfl
@[simp] theorem reset_reply : reset.reply = none := rfl
@[simp] theorem reset_draws : reset.draws = 0 := rfl

end Sys2Proof.Machine.State
end

