-- ==== Sys2Proof/Laws/Ops.lean ====
section
/-! SUPPORT. What the shared operations of Machine/Ops.lean can do, said once each. -/

namespace Sys2Proof.Machine

/-! ### Register writes -/

theorem getElem_set_regIdx {α : Type} (v : Vector α 32) (i j : RegIdx) (x : α) :
    (v.set i x)[j] = if i = j then x else v[j] := by
  simp [Vector.getElem_set, Fin.ext_iff]

theorem writeReg_regs_get (i j : RegIdx) (v : Word) (s : State) :
    (s.writeReg i v).regs[j] = if i = j then v else s.regs[j] := by
  simpa using getElem_set_regIdx s.regs i j v

theorem writeReg_written_get (i j : RegIdx) (v : Word) (s : State) :
    (s.writeReg i v).written[j] = if i = j then true else s.written[j] := by
  simpa using getElem_set_regIdx s.written i j true

@[simp] theorem writeRegs_nil (s : State) : s.writeRegs [] = s := rfl

@[simp] theorem writeRegs_cons (p : RegWrite) (ws : List RegWrite) (s : State) :
    s.writeRegs (p :: ws) = (s.writeReg p.1 p.2).writeRegs ws := rfl

/-- A list of register writes changes the registers and their `written` marks, nothing else. -/
theorem writeRegs_frame (ws : List RegWrite) (s : State) :
    s.writeRegs ws = { s with regs := (s.writeRegs ws).regs, written := (s.writeRegs ws).written } := by
  induction ws generalizing s with
  | nil => rfl
  | cons p ws ih => rw [writeRegs_cons, ih]; rfl

theorem writeRegs_regs_other (ws : List RegWrite) (s : State) (i : RegIdx) (h : ∀ p ∈ ws, p.1 ≠ i) :
    (s.writeRegs ws).regs[i] = s.regs[i] := by
  induction ws generalizing s with
  | nil => rfl
  | cons p ws ih =>
    rw [writeRegs_cons, ih _ fun q hq => h q (List.mem_cons_of_mem _ hq), writeReg_regs_get,
      if_neg (h p List.mem_cons_self)]

theorem writeRegs_written_other (ws : List RegWrite) (s : State) (i : RegIdx) (h : ∀ p ∈ ws, p.1 ≠ i) :
    (s.writeRegs ws).written[i] = s.written[i] := by
  induction ws generalizing s with
  | nil => rfl
  | cons p ws ih =>
    rw [writeRegs_cons, ih _ fun q hq => h q (List.mem_cons_of_mem _ hq), writeReg_written_get,
      if_neg (h p List.mem_cons_self)]

/-- With distinct indices every write of the list stands in the result (10_state.md R30). -/
theorem writeRegs_regs_mem (ws : List RegWrite) (s : State) (hd : (ws.map Prod.fst).Nodup) (p : RegWrite)
    (hp : p ∈ ws) : (s.writeRegs ws).regs[p.1] = p.2 := by
  induction ws generalizing s with
  | nil => cases hp
  | cons q ws ih =>
    rw [List.map_cons, List.nodup_cons] at hd
    rw [writeRegs_cons]
    cases hp with
    | head =>
      rw [writeRegs_regs_other ws _ _ fun r hr e => hd.1 (List.mem_map.mpr ⟨r, hr, e⟩), writeReg_regs_get, if_pos rfl]
    | tail _ hm => exact ih _ hd.2 hm

theorem writeRegs_written_mem (ws : List RegWrite) (s : State) (hd : (ws.map Prod.fst).Nodup) (p : RegWrite)
    (hp : p ∈ ws) : (s.writeRegs ws).written[p.1] = true := by
  induction ws generalizing s with
  | nil => cases hp
  | cons q ws ih =>
    rw [List.map_cons, List.nodup_cons] at hd
    rw [writeRegs_cons]
    cases hp with
    | head =>
      rw [writeRegs_written_other ws _ _ fun r hr e => hd.1 (List.mem_map.mpr ⟨r, hr, e⟩), writeReg_written_get,
        if_pos rfl]
    | tail _ hm => exact ih _ hd.2 hm

/-! ### Distinct destinations -/

theorem scalarWrites_nodup (d : RegIdx) (v : Word) : ((scalarWrites d v).map Prod.fst).Nodup := by
  simp [scalarWrites]

theorem vectorWrites_nodup (d : RegIdx) (v : Vec3) : ((vectorWrites d v).map Prod.fst).Nodup := by
  simp only [vectorWrites, List.map_cons, List.map_nil]
  revert d
  decide

theorem quatWrites_nodup (d : RegIdx) (q : Quat) : ((quatWrites d q).map Prod.fst).Nodup := by
  simp only [quatWrites, List.map_cons, List.map_nil]
  revert d
  decide

/-! ### Completion -/

theorem complete_ok (w : Word) (ws : List RegWrite) (s : State) :
    s.complete w (.ok ws) = (s.writeRegs ws).retire := rfl

theorem complete_error (w : Word) (e : CmdError) (s : State) :
    s.complete w (.error e) = (s.recordError e w).retire := rfl

theorem complete_ok_succeeded (w : Word) (ws : List RegWrite) (s : State) (hd : (ws.map Prod.fst).Nodup) :
    Succeeded s (s.complete w (.ok ws)) ws := by
  rw [complete_ok]
  have hf := writeRegs_frame ws s
  refine ⟨writeRegs_regs_mem ws s hd, writeRegs_regs_other ws s, writeRegs_written_mem ws s hd,
    writeRegs_written_other ws s, ?_, ?_, ?_, ⟨rfl, rfl, rfl⟩, ⟨?_, ?_, ?_, ?_, ?_, ?_⟩⟩ <;>
  · simp only [State.retire]
    rw [hf]

theorem complete_error_failed (w : Word) (e : CmdError) (s : State) :
    Failed s (s.complete w (.error e)) e w :=
  ⟨rfl, rfl, rfl, rfl, rfl, ⟨rfl, rfl, rfl⟩, ⟨rfl, rfl, rfl, rfl, rfl, rfl⟩⟩

/-- A completion always leaves the slot empty and BUSY 0, sets DONE, and leaves OVR, CTRL and the model's own fields. -/
theorem complete_retired (w : Word) (r : Result) (s : State) :
    Retired (s.complete w r) ∧ Untouched s (s.complete w r) := by
  cases r with
  | error e => exact ⟨(complete_error_failed w e s).retired, (complete_error_failed w e s).untouched⟩
  | ok ws =>
    rw [complete_ok]
    have hf := writeRegs_frame ws s
    refine ⟨⟨rfl, rfl, rfl⟩, ⟨?_, ?_, ?_, ?_, ?_, ?_⟩⟩ <;>
    · simp only [State.retire]
      rw [hf]

/-! ### Performing a command -/

@[simp] theorem commandOf_of_inflight {s : State} {c : Command} (i : Instr) (h : s.inflight = some c) :
    s.commandOf i = c := by
  simp [State.commandOf, h]

theorem perform_next (i : Instr) (sem : RegFile → Result) (s : State) :
    perform i sem s = .next (s.complete (s.commandOf i).word (rangeChecked i sem (s.commandOf i).operands)) := rfl

/-- A well-formed command whose rule answers `Ok(ws)` succeeds with `ws`. -/
theorem perform_succeeds {i : Instr} {sem : RegFile → Result} {s : State} {ws : List RegWrite}
    (hw : i.wellFormed = true) (hs : sem (s.commandOf i).operands = .ok ws) (hd : (ws.map Prod.fst).Nodup) :
    ∃ t, perform i sem s = .next t ∧ Succeeded s t ws := by
  refine ⟨_, rfl, ?_⟩
  rw [rangeChecked, if_pos hw, hs]
  exact complete_ok_succeeded _ _ _ hd

/-- A well-formed command whose rule raises `e` fails with `e`. -/
theorem perform_fails {i : Instr} {sem : RegFile → Result} {s : State} {e : CmdError}
    (hw : i.wellFormed = true) (hs : sem (s.commandOf i).operands = .error e) :
    ∃ t, perform i sem s = .next t ∧ Failed s t e (s.commandOf i).word := by
  refine ⟨_, rfl, ?_⟩
  rw [rangeChecked, if_pos hw, hs]
  exact complete_error_failed _ _ _

/-- A command with a base out of range fails with GROUP_RANGE (30_encoding.md R87). -/
theorem perform_out_of_range {i : Instr} {sem : RegFile → Result} {s : State} (hw : i.wellFormed = false) :
    ∃ t, perform i sem s = .next t ∧ Failed s t .groupRange (s.commandOf i).word := by
  refine ⟨_, rfl, ?_⟩
  rw [rangeChecked, if_neg (by simp [hw])]
  exact complete_error_failed _ _ _

end Sys2Proof.Machine
end

