-- ==== Sys2Proof/Laws/Commands.lean ====
section
/-! SUPPORT. The commands: each is a `perform` of its rule, and the rules of DIV and TOINTS by cases. -/

namespace Sys2Proof.Machine

/-- Whatever the command, executing it is performing its rule. -/
theorem exec_perform (i : Instr) (s : State) : ∃ sem, exec i s = perform i sem s := by
  cases i <;> exact ⟨_, rfl⟩

/-- Whatever the command, executing it completes the slot's command with some result. -/
theorem exec_complete (i : Instr) (s : State) : ∃ r, exec i s = .next (s.complete (s.commandOf i).word r) := by
  obtain ⟨sem, h⟩ := exec_perform i s
  exact ⟨_, h⟩

/-! ### DIV and TOINTS (41_scalar.md R105, R107) -/

theorem divResult_zero (d : RegIdx) (x : Word) {y : Word} (h : y.toInt = 0) :
    divResult d x y = .error .divZero :=
  if_pos h

theorem divResult_nonzero (d : RegIdx) (x : Word) {y : Word} (h : y.toInt ≠ 0) :
    divResult d x y = .ok (scalarWrites d (fdiv x y)) :=
  if_neg h

theorem tointsResult_zero (d : RegIdx) (n : Word) {s : Word} (h : s.toInt = 0) :
    tointsResult d n s = .error .scaleZero :=
  if_pos h

theorem tointsResult_large (d : RegIdx) (n : Word) {s : Word} (h : s.toInt ≠ 0) (hd : scaleDivisor s = 0) :
    tointsResult d n s = .error .scaleZero :=
  (if_neg h).trans (if_pos hd)

theorem tointsResult_ok (d : RegIdx) (n : Word) {s : Word} (h : s.toInt ≠ 0) (hd : scaleDivisor s ≠ 0) :
    tointsResult d n s = .ok (scalarWrites d (toIntScaled n s)) :=
  (if_neg h).trans (if_neg hd)

/-- The only errors a command's own rule raises are DIV's and TOINTS's (60_exceptions.md R172). -/
theorem divResult_cases (d : RegIdx) (x y : Word) :
    divResult d x y = .error .divZero ∨ divResult d x y = .ok (scalarWrites d (fdiv x y)) := by
  by_cases h : y.toInt = 0
  · exact .inl (divResult_zero d x h)
  · exact .inr (divResult_nonzero d x h)

theorem tointsResult_cases (d : RegIdx) (n s : Word) :
    tointsResult d n s = .error .scaleZero ∨ tointsResult d n s = .ok (scalarWrites d (toIntScaled n s)) := by
  by_cases h : s.toInt = 0
  · exact .inl (tointsResult_zero d n h)
  · by_cases hd : scaleDivisor s = 0
    · exact .inl (tointsResult_large d n h hd)
    · exact .inr (tointsResult_ok d n h hd)

/-- `dsc` is zero exactly when the scale is larger than 2^24 (41_scalar.md R107). -/
theorem scaleDivisor_eq_zero {s : Word} (h : s.toInt ≠ 0) : scaleDivisor s = 0 ↔ 2 ^ 24 < s.toInt.natAbs := by
  have hu : (Int.natAbs ((2 : Int) ^ 24)) = 2 ^ 24 := by decide
  have hdiv : (scaleDivisor s).natAbs = 2 ^ 24 / s.toInt.natAbs := by
    rw [scaleDivisor, tdiv, Int.natAbs_tdiv]
    exact congrArg (fun k => k / s.toInt.natAbs) hu
  rw [← Int.natAbs_eq_zero, hdiv, Nat.div_eq_zero_iff]
  simp [h]

/-! ### How a command can end -/

/-- Every way a command can end: a list of writes to exactly its destination registers, or the error that its form and
its operands allow (60_exceptions.md R172). -/
theorem exec_ends (i : Instr) (s : State) :
    (i.wellFormed = true ∧ ∃ ws : List RegWrite, ws.map Prod.fst = writesOf i ∧
      exec i s = .next (s.complete (s.commandOf i).word (.ok ws))) ∨
    (i.wellFormed = false ∧ exec i s = .next (s.complete (s.commandOf i).word (.error .groupRange))) ∨
    (i.op = .div ∧ exec i s = .next (s.complete (s.commandOf i).word (.error .divZero))) ∨
    (i.op = .toints ∧ exec i s = .next (s.complete (s.commandOf i).word (.error .scaleZero))) := by
  have split (sem : RegFile → Result) (h : exec i s = perform i sem s) :
      (i.wellFormed = false ∧ exec i s = .next (s.complete (s.commandOf i).word (.error .groupRange))) ∨
      (i.wellFormed = true ∧ exec i s = .next (s.complete (s.commandOf i).word (sem (s.commandOf i).operands))) := by
    rw [h, perform, rangeChecked]
    cases hw : i.wellFormed with
    | false => exact .inl ⟨rfl, rfl⟩
    | true => exact .inr ⟨rfl, rfl⟩
  cases i with
  | div d a b =>
    obtain ⟨hw, h⟩ | ⟨hw, h⟩ := split _ rfl
    · exact .inr (.inl ⟨hw, h⟩)
    · obtain e | e := divResult_cases d (scalarAt (s.commandOf (.div d a b)).operands a)
        (scalarAt (s.commandOf (.div d a b)).operands b) <;> rw [e] at h
      · exact .inr (.inr (.inl ⟨rfl, h⟩))
      · exact .inl ⟨hw, _, rfl, h⟩
  | toints d a b =>
    obtain ⟨hw, h⟩ | ⟨hw, h⟩ := split _ rfl
    · exact .inr (.inl ⟨hw, h⟩)
    · obtain e | e := tointsResult_cases d (scalarAt (s.commandOf (.toints d a b)).operands a)
        (scalarAt (s.commandOf (.toints d a b)).operands b) <;> rw [e] at h
      · exact .inr (.inr (.inr ⟨rfl, h⟩))
      · exact .inl ⟨hw, _, rfl, h⟩
  | _ =>
    obtain ⟨hw, h⟩ | ⟨hw, h⟩ := split _ rfl
    · exact .inr (.inl ⟨hw, h⟩)
    · exact .inl ⟨hw, _, rfl, h⟩

end Sys2Proof.Machine
end

