-- ==== Sys2Proof/Laws/Decode.lean ====
section
/-! SUPPORT. The fields of an encoded command, and what the decoder's parts do. -/

namespace Sys2Proof

/-! ### Fields of a command word -/

section Fields

variable (o : BitVec 8) (d a b : RegIdx)

theorem getLsbD_commandWord (i : Nat) : (commandWord o d a b).getLsbD i =
    if i < 9 then false
    else if i - 9 < 5 then (BitVec.ofFin (w := 5) b).getLsbD (i - 9)
    else if i - 9 - 5 < 5 then (BitVec.ofFin (w := 5) a).getLsbD (i - 9 - 5)
    else if i - 9 - 5 - 5 < 5 then (BitVec.ofFin (w := 5) d).getLsbD (i - 9 - 5 - 5)
    else o.getLsbD (i - 9 - 5 - 5 - 5) := by
  simp only [commandWord, BitVec.getLsbD_append, BitVec.getLsbD_zero]

@[simp] theorem opcField_commandWord : opcField (commandWord o d a b) = o := by
  apply BitVec.eq_of_getLsbD_eq
  intro i hi
  rw [opcField, BitVec.getLsbD_extractLsb', getLsbD_commandWord, if_neg (by omega), if_neg (by omega),
    if_neg (by omega), if_neg (by omega), show 24 + i - 9 - 5 - 5 - 5 = i by omega]
  simp [hi]

theorem dBits_commandWord : (commandWord o d a b).extractLsb' 19 5 = BitVec.ofFin (w := 5) d := by
  apply BitVec.eq_of_getLsbD_eq
  intro i hi
  rw [BitVec.getLsbD_extractLsb', getLsbD_commandWord, if_neg (by omega), if_neg (by omega),
    if_neg (by omega), if_pos (by omega), show 19 + i - 9 - 5 - 5 = i by omega]
  simp [hi]

theorem aBits_commandWord : (commandWord o d a b).extractLsb' 14 5 = BitVec.ofFin (w := 5) a := by
  apply BitVec.eq_of_getLsbD_eq
  intro i hi
  rw [BitVec.getLsbD_extractLsb', getLsbD_commandWord, if_neg (by omega), if_neg (by omega),
    if_pos (by omega), show 14 + i - 9 - 5 = i by omega]
  simp [hi]

theorem bBits_commandWord : (commandWord o d a b).extractLsb' 9 5 = BitVec.ofFin (w := 5) b := by
  apply BitVec.eq_of_getLsbD_eq
  intro i hi
  rw [BitVec.getLsbD_extractLsb', getLsbD_commandWord, if_neg (by omega), if_pos (by omega),
    show 9 + i - 9 = i by omega]
  simp [hi]

@[simp] theorem dField_commandWord : dField (commandWord o d a b) = d := by
  rw [dField, dBits_commandWord]

@[simp] theorem aField_commandWord : aField (commandWord o d a b) = a := by
  rw [aField, aBits_commandWord]

@[simp] theorem bField_commandWord : bField (commandWord o d a b) = b := by
  rw [bField, bBits_commandWord]

@[simp] theorem zField_commandWord : zField (commandWord o d a b) = 0#9 := by
  apply BitVec.eq_of_getLsbD_eq
  intro i hi
  rw [zField, BitVec.getLsbD_extractLsb', getLsbD_commandWord, if_pos (by omega)]
  simp

/-- A word whose bits 8:0 are zero is made of its fields. -/
theorem commandWord_fields (w : Word) (hz : zField w = 0#9) :
    commandWord (opcField w) (dField w) (aField w) (bField w) = w := by
  apply BitVec.eq_of_getLsbD_eq
  intro i hi
  have hz' : i < 9 → w.getLsbD i = false := by
    intro h
    have := congrArg (fun v => v.getLsbD i) hz
    simpa [zField, h] using this
  have hofFin : ∀ k, BitVec.ofFin (w := 5) ((w.extractLsb' k 5).toFin) = w.extractLsb' k 5 := fun _ => rfl
  simp only [commandWord, opcField, dField, aField, bField, hofFin, BitVec.getLsbD_append, BitVec.getLsbD_extractLsb']
  split
  · next h => simp [hz' h]
  · split
    · next h1 h2 => simp [h2, show 9 + (i - 9) = i by omega]
    · split
      · next h1 h2 h3 => simp [h3, show 14 + (i - 9 - 5) = i by omega]
      · split
        · next h1 h2 h3 h4 => simp [h4, show 19 + (i - 9 - 5 - 5) = i by omega]
        · next h1 h2 h3 h4 =>
          simp [show i - 9 - 5 - 5 - 5 < 8 by omega, show 24 + (i - 9 - 5 - 5 - 5) = i by omega]

end Fields

/-! ### The opcode map -/

@[simp] theorem Op.ofCode?_code (o : Op) : Op.ofCode? o.code = some o := by
  cases o <;> rfl

theorem Op.code_ofCode? {c : BitVec 8} {o : Op} (h : Op.ofCode? c = some o) : o.code = c := by
  revert h
  revert c
  cases o <;> decide

@[simp] theorem Op.op_build (o : Op) (d a b : RegIdx) : (o.build d a b).op = o := by
  cases o <;> rfl

@[simp] theorem Instr.build_fields (i : Instr) : i.op.build i.fieldD i.fieldA i.fieldB = i := by
  cases i <;> rfl

theorem Op.fieldD_build (o : Op) (d a b : RegIdx) : (o.build d a b).fieldD = d := by
  cases o <;> rfl

theorem Op.fieldA_build (o : Op) (d a b : RegIdx) :
    (o.build d a b).fieldA = if o.kindA = .unused then 0 else a := by
  cases o <;> rfl

theorem Op.fieldB_build (o : Op) (d a b : RegIdx) :
    (o.build d a b).fieldB = if o.kindB = .unused then 0 else b := by
  cases o <;> rfl

/-! ### Well-formedness -/

@[simp] theorem Kind.inRange_scalar (f : RegIdx) : Kind.inRange .scalar f = true := rfl

@[simp] theorem Kind.inRange_unused (f : RegIdx) : Kind.inRange .unused f = true := rfl

@[simp] theorem Kind.inRange_vector (f : RegIdx) : Kind.inRange .vector f = true ↔ f.val ≤ 29 :=
  decide_eq_true_iff

@[simp] theorem Kind.inRange_quaternion (f : RegIdx) : Kind.inRange .quaternion f = true ↔ f.val ≤ 28 :=
  decide_eq_true_iff

theorem Instr.wellFormed_iff (i : Instr) : i.wellFormed = true ↔
    i.op.kindD.inRange i.fieldD = true ∧ i.op.kindA.inRange i.fieldA = true ∧ i.op.kindB.inRange i.fieldB = true := by
  rw [Instr.wellFormed, Bool.and_eq_true, Bool.and_eq_true, and_assoc]

/-! ### The decoder -/

@[simp] theorem reservedNonzero_encode (i : Instr) : reservedNonzero i.op (encode i) = false := by
  cases i <;> simp [reservedNonzero, encode, Kind.unusedNonzero, Instr.op, Op.kindA, Op.kindB, Instr.fieldA, Instr.fieldB]

/-- Everything the decoder can answer, by cases. -/
theorem decode_cases (w : Word) :
    (Op.ofCode? (opcField w) = none ∧ decode w = .error .illegalOpcode) ∨
    (∃ o, Op.ofCode? (opcField w) = some o ∧ reservedNonzero o w = true ∧ decode w = .error .reservedBits) ∨
    (∃ o, Op.ofCode? (opcField w) = some o ∧ reservedNonzero o w = false ∧
      (o.build (dField w) (aField w) (bField w)).wellFormed = false ∧ decode w = .error .groupRange) ∨
    (∃ o, Op.ofCode? (opcField w) = some o ∧ reservedNonzero o w = false ∧
      (o.build (dField w) (aField w) (bField w)).wellFormed = true ∧
      decode w = .ok (o.build (dField w) (aField w) (bField w))) := by
  cases ho : Op.ofCode? (opcField w) with
  | none => exact .inl ⟨rfl, by simp [decode, ho]⟩
  | some o =>
    refine .inr ?_
    cases hr : reservedNonzero o w with
    | true => exact .inl ⟨o, rfl, hr, by simp [decode, ho, hr]⟩
    | false =>
      refine .inr ?_
      cases hw : (o.build (dField w) (aField w) (bField w)).wellFormed with
      | false => exact .inl ⟨o, rfl, hr, hw, by simp [decode, ho, hr, hw]⟩
      | true => exact .inr ⟨o, rfl, hr, hw, by simp [decode, ho, hr, hw]⟩

/-- What the decoder reads is well-formed. -/
theorem decode_wellFormed {w : Word} {i : Instr} (h : decode w = .ok i) : i.wellFormed = true := by
  rcases decode_cases w with ⟨-, e⟩ | ⟨o, -, -, e⟩ | ⟨o, -, -, -, e⟩ | ⟨o, -, -, hw, e⟩ <;> rw [e] at h <;> cases h
  exact hw

end Sys2Proof
end

