-- ==== Sys2Proof/Laws/HostPort.lean ====
section
/-! SUPPORT. The host window's map at each of its offsets, and what a transaction does. -/

namespace Sys2Proof.Machine

/-! ### The window map (20_memory.md R51) -/

@[simp] theorem windowReg_regOffset (i : RegIdx) : windowReg (regOffset i) = .gpr i := by
  revert i
  decide

@[simp] theorem windowReg_cmd : windowReg 0x80#8 = .cmd := by decide
@[simp] theorem windowReg_status : windowReg 0x84#8 = .status := by decide
@[simp] theorem windowReg_ctrl : windowReg 0x88#8 = .ctrl := by decide
@[simp] theorem windowReg_errcmd : windowReg 0x8C#8 = .errcmd := by decide
@[simp] theorem windowReg_id : windowReg 0x90#8 = .id := by decide

theorem regOffset_aligned (i : RegIdx) : (regOffset i).toNat % 4 = 0 := by
  revert i
  decide

theorem memRead_supported {off : BitVec 8} (h : off.toNat % 4 = 0) : (memRead off).supported = true := by
  simp [memRead, Transaction.supported, h]

theorem memWrite_supported {off : BitVec 8} (v : Word) (h : off.toNat % 4 = 0) : (memWrite off v).supported = true := by
  simp [memWrite, Transaction.supported, h]

/-! ### Transactions (20_memory.md R52) -/

theorem transact_unsupported {t : Transaction} (s : State) (h : t.supported = false) :
    s.transact t = { s with reply := some .busError } := by
  simp [State.transact, h]

/-- A supported read changes no state of the engine; it answers the word and counts the free draws taken. -/
theorem transact_read {t : Transaction} (s : State) (h : t.supported = true) (ha : t.access = .read) :
    s.transact t = { s with
      reply := some (.data (s.readWord (windowReg t.off)))
      draws := s.draws + s.drawsTaken (windowReg t.off) } := by
  simp [State.transact, h, ha]

theorem transact_write {t : Transaction} {lanes : BitVec 4} {v : Word} (s : State) (h : t.supported = true)
    (ha : t.access = .write lanes v) :
    s.transact t = { s.writeWord (windowReg t.off) v with reply := some .ok } := by
  simp [State.transact, h, ha]

/-! ### Writes to STATUS and CTRL (10_state.md R25, R26) -/

theorem hostWriteStatus_eq (v : Word) (s : State) :
    s.hostWriteStatus v = { s with
      done := s.done && !v[1]
      err := s.err && !v[2]
      ecode := if v[2] then 0#4 else s.ecode
      errcmd := if v[2] then 0#32 else s.errcmd
      ovr := s.ovr && !v[3] } := by
  unfold State.hostWriteStatus State.acknowledgeError
  cases v[1] <;> cases v[2] <;> cases v[3] <;> simp

theorem hostWriteCtrl_srst {v : Word} (s : State) (h : v[2] = true) : s.hostWriteCtrl v = s.softReset := by
  simp [State.hostWriteCtrl, h]

theorem hostWriteCtrl_enables {v : Word} (s : State) (h : v[2] = false) :
    s.hostWriteCtrl v = { s with ieDone := v[0], ieErr := v[1] } := by
  simp [State.hostWriteCtrl, h]

/-- Everything a window write can do to the registers: nothing, or one register while BUSY = 0. -/
theorem writeWord_regs (r : WindowReg) (v : Word) (s : State) :
    (s.writeWord r v).regs = s.regs ∨ (∃ i, r = .gpr i ∧ s.busy = false ∧ s.writeWord r v = s.writeReg i v) := by
  cases r with
  | gpr i =>
    cases hb : s.busy with
    | true => left; simp [State.writeWord, State.hostWriteReg, hb]
    | false => right; exact ⟨i, rfl, rfl, by simp [State.writeWord, State.hostWriteReg, hb]⟩
  | cmd => left; simp only [State.writeWord, State.hostWriteCmd]; split <;> rfl
  | status => left; simp [State.writeWord, hostWriteStatus_eq]
  | ctrl => left; simp only [State.writeWord, State.hostWriteCtrl]; split <;> rfl
  | errcmd | id | reserved => left; rfl

end Sys2Proof.Machine
end

