-- ==== Sys2Proof/Laws/PerInstr.lean ====
section
/-! SUPPORT. Statements made for each constructor of `Instr`: the words of the encoder carry the opcode table's match
under its mask (30_encoding.md R83). -/

namespace Sys2Proof.Laws.EncodeMatchesTable

/-- The opcode table's mask of a command. -/
def mask : Op → Word
  | .neg | .fromint => 0xFF003FFF#32
  | .qid => 0xFF07FFFF#32
  | _ => 0xFF0001FF#32

/-- The opcode table's match of a command. -/
def matchWord : Op → Word
  | .add => 0x01000000#32
  | .sub => 0x02000000#32
  | .neg => 0x03000000#32
  | .mul => 0x04000000#32
  | .div => 0x05000000#32
  | .fromint => 0x06000000#32
  | .toints => 0x07000000#32
  | .vadd => 0x10000000#32
  | .vscale => 0x11000000#32
  | .vdot => 0x12000000#32
  | .vcross => 0x13000000#32
  | .qid => 0x20000000#32
  | .qmul => 0x21000000#32
  | .qrot => 0x22000000#32

/-- The word of `i` under its row's mask is its row's match. -/
def Statement (i : Instr) : Prop := encode i &&& mask i.op = matchWord i.op

/-- A mask that keeps the opcode and clears every bit of the used fields leaves the opcode alone. -/
theorem masked (m : Word) (o : BitVec 8) (d a b : RegIdx) (ho : ∀ k < 32, 24 ≤ k → m.getLsbD k = true)
    (hd : ∀ k < 24, 19 ≤ k → m.getLsbD k = false)
    (ha : a = 0 ∨ ∀ k < 19, 14 ≤ k → m.getLsbD k = false)
    (hb : b = 0 ∨ ∀ k < 14, 9 ≤ k → m.getLsbD k = false) :
    commandWord o d a b &&& m = commandWord o 0 0 0 := by
  have zero : ∀ k, (BitVec.ofFin (w := 5) (0 : RegIdx)).getLsbD k = false := by simp
  apply BitVec.eq_of_getLsbD_eq
  intro i hi
  rw [BitVec.getLsbD_and, getLsbD_commandWord, getLsbD_commandWord]
  simp only [zero]
  split_ifs with h1 h2 h3 h4
  · rfl
  · rcases hb with rfl | hb
    · simp
    · simp [hb i (by omega) (by omega)]
  · rcases ha with rfl | ha
    · simp
    · simp [ha i (by omega) (by omega)]
  · simp [hd i (by omega) (by omega)]
  · simp [ho i (by omega) (by omega)]

theorem add (d a b : RegIdx) : Statement (.add d a b) :=
  (masked (mask .add) (Op.code .add) d a b (by decide) (by decide) (.inr (by decide)) (.inr (by decide))).trans rfl

theorem sub (d a b : RegIdx) : Statement (.sub d a b) :=
  (masked (mask .sub) (Op.code .sub) d a b (by decide) (by decide) (.inr (by decide)) (.inr (by decide))).trans rfl

theorem neg (d a : RegIdx) : Statement (.neg d a) :=
  (masked (mask .neg) (Op.code .neg) d a 0 (by decide) (by decide) (.inr (by decide)) (.inl rfl)).trans rfl

theorem mul (d a b : RegIdx) : Statement (.mul d a b) :=
  (masked (mask .mul) (Op.code .mul) d a b (by decide) (by decide) (.inr (by decide)) (.inr (by decide))).trans rfl

theorem div (d a b : RegIdx) : Statement (.div d a b) :=
  (masked (mask .div) (Op.code .div) d a b (by decide) (by decide) (.inr (by decide)) (.inr (by decide))).trans rfl

theorem fromint (d a : RegIdx) : Statement (.fromint d a) :=
  (masked (mask .fromint) (Op.code .fromint) d a 0 (by decide) (by decide) (.inr (by decide)) (.inl rfl)).trans rfl

theorem toints (d a b : RegIdx) : Statement (.toints d a b) :=
  (masked (mask .toints) (Op.code .toints) d a b (by decide) (by decide) (.inr (by decide)) (.inr (by decide))).trans rfl

theorem vadd (d a b : RegIdx) : Statement (.vadd d a b) :=
  (masked (mask .vadd) (Op.code .vadd) d a b (by decide) (by decide) (.inr (by decide)) (.inr (by decide))).trans rfl

theorem vscale (d a b : RegIdx) : Statement (.vscale d a b) :=
  (masked (mask .vscale) (Op.code .vscale) d a b (by decide) (by decide) (.inr (by decide)) (.inr (by decide))).trans rfl

theorem vdot (d a b : RegIdx) : Statement (.vdot d a b) :=
  (masked (mask .vdot) (Op.code .vdot) d a b (by decide) (by decide) (.inr (by decide)) (.inr (by decide))).trans rfl

theorem vcross (d a b : RegIdx) : Statement (.vcross d a b) :=
  (masked (mask .vcross) (Op.code .vcross) d a b (by decide) (by decide) (.inr (by decide)) (.inr (by decide))).trans rfl

theorem qid (d : RegIdx) : Statement (.qid d) :=
  (masked (mask .qid) (Op.code .qid) d 0 0 (by decide) (by decide) (.inl rfl) (.inl rfl)).trans rfl

theorem qmul (d a b : RegIdx) : Statement (.qmul d a b) :=
  (masked (mask .qmul) (Op.code .qmul) d a b (by decide) (by decide) (.inr (by decide)) (.inr (by decide))).trans rfl

theorem qrot (d a b : RegIdx) : Statement (.qrot d a b) :=
  (masked (mask .qrot) (Op.code .qrot) d a b (by decide) (by decide) (.inr (by decide)) (.inr (by decide))).trans rfl

end Sys2Proof.Laws.EncodeMatchesTable
end

