-- ==== Sys2Proof/Laws/Step.lean ====
section
/-! SUPPORT. Everything a step can do: the engine's turn, a host transaction, a hardware reset. -/

namespace Sys2Proof.Machine

@[simp] theorem popTurn_regs (s : State) : s.popTurn.regs = s.regs := rfl
@[simp] theorem popTurn_inflight (s : State) : s.popTurn.inflight = s.inflight := rfl
@[simp] theorem popTurn_busy (s : State) : s.popTurn.busy = s.busy := rfl
@[simp] theorem popTurn_done (s : State) : s.popTurn.done = s.done := rfl
@[simp] theorem popTurn_err (s : State) : s.popTurn.err = s.err := rfl
@[simp] theorem popTurn_ovr (s : State) : s.popTurn.ovr = s.ovr := rfl
@[simp] theorem popTurn_ecode (s : State) : s.popTurn.ecode = s.ecode := rfl
@[simp] theorem popTurn_errcmd (s : State) : s.popTurn.errcmd = s.errcmd := rfl
@[simp] theorem popTurn_written (s : State) : s.popTurn.written = s.written := rfl
@[simp] theorem popTurn_turns (s : State) : s.popTurn.turns = s.turns.tail := rfl

theorem popTurn_of_nil {s : State} (h : s.turns = []) : s.popTurn = s := by
  cases s
  simp_all [State.popTurn]

/-- On the engine's turn a step is `engineStep`. -/
theorem step_engine {s : State} (h : s.EngineNext) : step s = engineStep s.popTurn := by
  obtain h | ⟨r, h⟩ := h
  · rw [popTurn_of_nil h, step, takeTurn, h]
  · rw [step, takeTurn, h, State.popTurn, h, List.tail_cons]

theorem step_engine_idle {s : State} (h : s.EngineNext) (hs : s.inflight = none) : step s = .next s.popTurn := by
  rw [step_engine h, engineStep, popTurn_inflight, hs]

theorem step_engine_run {s : State} {c : Command} (h : s.EngineNext) (hs : s.inflight = some c) :
    step s = runCommand c s.popTurn := by
  rw [step_engine h, engineStep, popTurn_inflight, hs]

theorem step_host {s : State} {t : Transaction} {rest : List Turn} (h : s.turns = .host t :: rest) :
    step s = .next (State.transact t { s with turns := rest }) := by
  rw [step, takeTurn, h]

/-- A step that is an aligned word read. -/
theorem step_read {s : State} {off : BitVec 8} {rest : List Turn} (h : s.turns = .host (memRead off) :: rest)
    (ho : off.toNat % 4 = 0) :
    step s = .next { s with
      turns := rest
      reply := some (.data (s.readWord (windowReg off)))
      draws := s.draws + s.drawsTaken (windowReg off) } := by
  rw [step_host h, transact_read _ (memRead_supported ho) rfl, memRead]
  cases windowReg off <;> rfl

/-- A step that is an aligned word write. -/
theorem step_write {s : State} {off : BitVec 8} {v : Word} {rest : List Turn}
    (h : s.turns = .host (memWrite off v) :: rest) (ho : off.toNat % 4 = 0) :
    step s = .next { ({ s with turns := rest } : State).writeWord (windowReg off) v with reply := some .ok } := by
  rw [step_host h, transact_write _ (memWrite_supported v ho) rfl, memWrite]

theorem step_hardReset {s : State} {rest : List Turn} (h : s.turns = .hardReset :: rest) :
    step s = .next (State.hardwareReset { s with turns := rest }) := by
  rw [step, takeTurn, h]

theorem runCommand_ok {c : Command} {i : Instr} (s : State) (h : decode c.word = .ok i) :
    runCommand c s = exec i s := by
  rw [runCommand, h]

theorem runCommand_error {c : Command} {e : CmdError} (s : State) (h : decode c.word = .error e) :
    runCommand c s = .next (s.complete c.word (.error e)) := by
  rw [runCommand, h]

/-- Running the slot's command completes it with some result. -/
theorem runCommand_complete {c : Command} {s : State} (h : s.inflight = some c) :
    ∃ r, runCommand c s = .next (s.complete c.word r) := by
  cases hd : decode c.word with
  | error e => exact ⟨_, runCommand_error s hd⟩
  | ok i =>
    obtain ⟨r, hr⟩ := exec_complete i s
    rw [commandOf_of_inflight i h] at hr
    exact ⟨r, (runCommand_ok s hd).trans hr⟩

/-- Everything a step can do. -/
theorem step_cases (s : State) :
    (s.EngineNext ∧ s.inflight = none ∧ step s = .next s.popTurn) ∨
    (∃ c r, s.EngineNext ∧ s.inflight = some c ∧ runCommand c s.popTurn = .next (s.popTurn.complete c.word r) ∧
      step s = .next (s.popTurn.complete c.word r)) ∨
    (∃ t rest, s.turns = .host t :: rest ∧ step s = .next (State.transact t { s with turns := rest })) ∨
    (∃ rest, s.turns = .hardReset :: rest ∧ step s = .next (State.hardwareReset { s with turns := rest })) := by
  have engine (h : s.EngineNext) : (s.EngineNext ∧ s.inflight = none ∧ step s = .next s.popTurn) ∨
      (∃ c r, s.EngineNext ∧ s.inflight = some c ∧ runCommand c s.popTurn = .next (s.popTurn.complete c.word r) ∧
        step s = .next (s.popTurn.complete c.word r)) := by
    cases hc : s.inflight with
    | none => exact .inl ⟨h, rfl, step_engine_idle h hc⟩
    | some c =>
      obtain ⟨r, hr⟩ := runCommand_complete (s := s.popTurn) hc
      exact .inr ⟨c, r, h, rfl, hr, (step_engine_run h hc).trans hr⟩
  match ht : s.turns with
  | [] => exact (engine (.inl ht)).elim .inl (fun h => .inr (.inl h))
  | .engine :: rest => exact (engine (.inr ⟨rest, ht⟩)).elim .inl (fun h => .inr (.inl h))
  | .host t :: rest => exact .inr (.inr (.inl ⟨t, rest, rfl, step_host ht⟩))
  | .hardReset :: rest => exact .inr (.inr (.inr ⟨rest, rfl, step_hardReset ht⟩))

/-- A run of one step more goes on from the step's next state. -/
theorem run_succ {s t : State} (k : Nat) (h : step s = .next t) :
    Host.Core.run Sys2Proof.core (k + 1) s = Host.Core.run Sys2Proof.core k t := by
  have h' : Sys2Proof.core.step s = .next t := h
  simp only [Host.Core.run, h']

/-! ### The run of a host program (70_reset_and_hazards.md R214) -/

theorem ended_iff (s : State) : s.ended = true ↔ (∀ t : Transaction, Turn.host t ∉ s.turns) ∧ s.inflight = none := by
  have h (u : Turn) : u.isHost = true ↔ ∃ t, u = .host t := by cases u <;> simp [Turn.isHost]
  simp only [State.ended, Bool.and_eq_true, Bool.not_eq_true', List.any_eq_false, h, Option.isNone_iff_eq_none]
  exact and_congr_left' ⟨fun hs t ht => hs _ ht ⟨t, rfl⟩, fun hs u hu ⟨t, e⟩ => hs t (e ▸ hu)⟩

/-- A run that has ended takes no step more. -/
theorem runToEnd_ended {s : State} (k : Nat) (h : s.ended = true) : runToEnd k s = .next s := by
  cases k with
  | zero => rfl
  | succ k => rw [runToEnd, if_pos h]

/-- A run that has not ended goes on from the step's next state. -/
theorem runToEnd_succ {s t : State} (k : Nat) (h : s.ended = false) (hs : step s = .next t) :
    runToEnd (k + 1) s = runToEnd k t := by
  rw [runToEnd, if_neg (by simp [h]), hs]

/-- Everything a transaction can do: answer without touching the engine, or write one window word. -/
theorem transact_cases (t : Transaction) (s : State) :
    (∃ reply draws, s.transact t = { s with reply := reply, draws := draws }) ∨
    (∃ lanes v, t.supported = true ∧ t.access = .write lanes v ∧
      s.transact t = { s.writeWord (windowReg t.off) v with reply := some .ok }) := by
  cases hs : t.supported with
  | false => exact .inl ⟨_, _, transact_unsupported s hs⟩
  | true =>
    cases ha : t.access with
    | read => exact .inl ⟨_, _, transact_read s hs ha⟩
    | write lanes v => exact .inr ⟨lanes, v, rfl, rfl, transact_write s hs ha⟩

end Sys2Proof.Machine
end

