-- ==== Sys2Proof/Tests/Slice0.lean ====
section
/-! SUPPORT. Tests: words written out from 30_encoding.md, values from 95_test_vectors.md, and for each obligation with
hypotheses a witness that meets them at the boundary values of its clauses. -/

namespace Sys2Proof.Tests

open Sys2Proof.Machine

/-- The reset engine after the host has written these registers and then the word `w` to CMD; the next turn is the
engine's own. -/
def loaded (w : Word) (ws : List RegWrite) : State :=
  { (State.reset.writeRegs ws).accept w with turns := [.engine] }

/-- `s` with the transactions `ts` coming. -/
def hosted (ts : List Transaction) (s : State) : State := { s with turns := ts.map .host }

/-- The state after one step (the machine never stops). -/
def after (s : State) : State :=
  match step s with
  | .next t => t
  | .fault _ => s
  | .refused _ => s

/-- Register `i` after the command `w` has completed on these registers. -/
def result (w : Word) (ws : List RegWrite) (i : RegIdx) : Word := (after (loaded w ws)).regs[i]

/-- STATUS and ERRCMD after the command `w` has completed on these registers. -/
def outcome (w : Word) (ws : List RegWrite) : Word × Word :=
  ((after (loaded w ws)).statusWord, (after (loaded w ws)).errcmd)

/-! ### WellFormed: an ill-formed command for each check (30_encoding.md R87) -/

theorem test_ill_formed_vector_d : (Instr.vadd 30 0 0).wellFormed = false ∧ (Instr.vadd 29 0 0).wellFormed = true := by
  decide
theorem test_ill_formed_vector_a : (Instr.vscale 0 30 31).wellFormed = false ∧
    (Instr.vscale 29 29 31).wellFormed = true := by decide
theorem test_ill_formed_vector_b : (Instr.vdot 31 0 30).wellFormed = false ∧ (Instr.vdot 31 29 29).wellFormed = true := by
  decide
theorem test_ill_formed_quaternion_d : (Instr.qid 29).wellFormed = false ∧ (Instr.qid 28).wellFormed = true := by decide
theorem test_ill_formed_quaternion_a : (Instr.qrot 29 29 29).wellFormed = false ∧
    (Instr.qrot 29 28 29).wellFormed = true := by decide
theorem test_ill_formed_quaternion_b : (Instr.qmul 28 28 29).wellFormed = false ∧
    (Instr.qmul 28 28 28).wellFormed = true := by decide

/-! ### Decoding: words written out as opc, d, a, b, zero from 30_encoding.md R80, R83 -/

theorem test_decode_add : decode 0b00000001_00011_00001_00010_000000000#32 = .ok (.add 3 1 2) := by decide
theorem test_decode_sub : decode 0b00000010_11111_00000_10000_000000000#32 = .ok (.sub 31 0 16) := by decide
theorem test_decode_neg : decode 0b00000011_00101_00100_00000_000000000#32 = .ok (.neg 5 4) := by decide
theorem test_decode_mul : decode 0b00000100_00000_00001_00010_000000000#32 = .ok (.mul 0 1 2) := by decide
theorem test_decode_div : decode 0b00000101_00100_00000_00011_000000000#32 = .ok (.div 4 0 3) := by decide
theorem test_decode_fromint : decode 0b00000110_00111_00101_00000_000000000#32 = .ok (.fromint 7 5) := by decide
theorem test_decode_toints : decode 0b00000111_00110_00100_00101_000000000#32 = .ok (.toints 6 4 5) := by decide
theorem test_decode_vadd : decode 0b00010000_11101_01001_10001_000000000#32 = .ok (.vadd 29 9 17) := by decide
theorem test_decode_vscale : decode 0b00010001_01000_01000_01101_000000000#32 = .ok (.vscale 8 8 13) := by decide
theorem test_decode_vdot : decode 0b00010010_01100_00000_00100_000000000#32 = .ok (.vdot 12 0 4) := by decide
theorem test_decode_vcross : decode 0b00010011_01000_00000_00100_000000000#32 = .ok (.vcross 8 0 4) := by decide
theorem test_decode_qid : decode 0b00100000_11100_00000_00000_000000000#32 = .ok (.qid 28) := by decide
theorem test_decode_qmul : decode 0b00100001_01100_00100_01000_000000000#32 = .ok (.qmul 12 4 8) := by decide
theorem test_decode_qrot : decode 0b00100010_11100_11000_11100_000000000#32 = .ok (.qrot 28 24 28) := by decide

/-! ### Values of 95_test_vectors.md L2 and L3, each through one step of the machine -/

theorem test_add : result 0x01184400#32 [(1, 0x01800000#32), (2, 0x02400000#32)] 3 = 0x03C00000#32 := by decide
theorem test_add_wraps : result 0x01184400#32 [(1, 0x7FFFFFFF#32), (2, 1#32)] 3 = 0x80000000#32 := by decide
theorem test_sub : result 0x02184400#32 [(1, 0x01000000#32), (2, 0x02800000#32)] 3 = 0xFE800000#32 := by decide
theorem test_sub_wraps : result 0x02184400#32 [(1, 0#32), (2, 0x80000000#32)] 3 = 0x80000000#32 := by decide
theorem test_neg : result 0x03290000#32 [(4, 1#32)] 5 = 0xFFFFFFFF#32 := by decide
theorem test_neg_in_place : result 0x03210000#32 [(4, 0x80000000#32)] 4 = 0x80000000#32 := by decide
theorem test_mul : result 0x04004400#32 [(1, 0xFFFFFFFD#32), (2, 0x00800000#32)] 0 = 0xFFFFFFFE#32 := by decide
theorem test_mul_wraps : result 0x04004400#32 [(1, 0x80000000#32), (2, 0xFF000000#32)] 0 = 0x80000000#32 := by
  decide
theorem test_div : result 0x05200600#32 [(0, 0xFF000000#32), (3, 0x03000000#32)] 4 = 0xFFAAAAAB#32 := by decide
theorem test_div_zero : outcome 0x05184400#32 [(1, 0x07000000#32), (2, 0#32)] = (0x00000406#32, 0x05184400#32) := by
  decide
theorem test_fromint : result 0x06394000#32 [(5, 0x000003E8#32)] 7 = 0xE8000000#32 := by decide
theorem test_fromint_negative : result 0x06394000#32 [(5, 0xFFFFFF7F#32)] 7 = 0x7F000000#32 := by decide
theorem test_toints : result 0x07310A00#32 [(4, 0xFE800000#32), (5, 0x000003E8#32)] 6 = 0xFFFFFA24#32 := by
  decide
theorem test_toints_scale_zero : outcome 0x07100200#32 [(0, 0x01800000#32), (1, 0x01000001#32)] =
    (0x00000506#32, 0x07100200#32) := by decide
/-- VADD v8, v0, v4. -/
theorem test_vadd : (List.map (result 0x10400800#32 [(0, 0x7FFFFFFF#32), (2, 0x80000000#32), (4, 1#32),
    (6, 0xFFFFFFFF#32)]) [8, 9, 10]) = [0x80000000#32, 0#32, 0x7FFFFFFF#32] := by decide
/-- VADD v1, v0, v1: the groups overlap and every source is read first. -/
theorem test_vadd_overlap : (List.map (result 0x10080200#32 [(0, 1#32), (1, 2#32), (2, 4#32), (3, 8#32)]) [1, 2, 3]) =
    [3#32, 6#32, 12#32] := by decide
/-- VSCALE v8, v8, r13. -/
theorem test_vscale : (List.map (result 0x11421A00#32 [(8, 0xFFFFFFFF#32), (9, 1#32), (10, 0x10000000#32),
    (13, 0x00800000#32)]) [8, 9, 10]) = [0xFFFFFFFF#32, 0#32, 0x08000000#32] := by decide
/-- VSCALE v8, v8, r9: the scalar lies inside the group that is written; 2.0 scales (1, 2, 3). -/
theorem test_vscale_by_own_component : (List.map (result 0x11421200#32 [(8, 0x01000000#32), (9, 0x02000000#32),
    (10, 0x03000000#32)]) [8, 9, 10]) = [0x02000000#32, 0x04000000#32, 0x06000000#32] := by decide
theorem test_vdot : result 0x12600800#32 [(0, 0x01000000#32), (1, 0x02000000#32), (2, 0x03000000#32),
    (4, 0x04000000#32), (5, 0x05000000#32), (6, 0x06000000#32)] 12 = 0x20000000#32 := by decide
/-- VDOT r31, v29, v0: the destination lies inside the source group. -/
theorem test_vdot_r31 : result 0x12FF4000#32 [(29, 0x08000000#32), (30, 0x08000000#32), (0, 0x08000000#32),
    (1, 0x08000000#32)] 31 = 0x80000000#32 := by decide
theorem test_vcross : (List.map (result 0x13400800#32 [(0, 0x01000000#32), (1, 0x02000000#32), (2, 0x03000000#32),
    (4, 0x04000000#32), (5, 0x05000000#32), (6, 0x06000000#32)]) [8, 9, 10]) =
    [0xFD000000#32, 0x06000000#32, 0xFD000000#32] := by decide
/-- VCROSS v0, v0, v4 of program P2. -/
theorem test_vcross_in_place : (List.map (result 0x13000800#32 [(0, 0x01000000#32), (1, 0x02000000#32),
    (2, 0x03000000#32), (4, 0x04000000#32), (5, 0x05000000#32), (6, 0x06000000#32)]) [0, 1, 2]) =
    [0xFD000000#32, 0x06000000#32, 0xFD000000#32] := by decide
theorem test_qid : (List.map (result 0x20E00000#32 [(29, 7#32), (31, 9#32)]) [28, 29, 30, 31]) =
    [0x01000000#32, 0#32, 0#32, 0#32] := by decide
theorem test_qid_range : outcome 0x20E80000#32 [] = (0x00000306#32, 0x20E80000#32) := by decide
/-- QMUL q12, q4, q8: (1, 2, 3, 4)(5, 6, 7, 8). -/
theorem test_qmul : (List.map (result 0x21611000#32 [(4, 0x01000000#32), (5, 0x02000000#32), (6, 0x03000000#32),
    (7, 0x04000000#32), (8, 0x05000000#32), (9, 0x06000000#32), (10, 0x07000000#32), (11, 0x08000000#32)])
    [12, 13, 14, 15]) = [0xC4000000#32, 0x0C000000#32, 0x1E000000#32, 0x18000000#32] := by decide
/-- QMUL q0, q0, q4, the second composition of program P5, in place. -/
theorem test_qmul_in_place : (List.map (result 0x21000800#32 [(0, 0x00FFAE18#32), (1, 0x000CCB6F#32),
    (4, 0x00FFAE18#32), (5, 0x000CCB6F#32)]) [0, 1, 2, 3]) = [0x00FEB896#32, 0x00198EAE#32, 0#32, 0#32] := by
  decide
/-- QROT v28, q24, v28 of program P3, in place, with the evaluation order of D13. -/
theorem test_qrot_in_place : (List.map (result 0x22E63800#32 [(24, 0x00B504F3#32), (27, 0x00B504F3#32),
    (28, 0x01000000#32)]) [28, 29, 30]) = [1#32, 0x00FFFFFF#32, 0#32] := by decide
/-- QROT v12, q0, v8 with the non-unit quaternion (0, 2, 0, 0). -/
theorem test_qrot_non_unit : (List.map (result 0x22601000#32 [(1, 0x02000000#32), (9, 0x01000000#32)]) [12, 13, 14]) =
    [0#32, 0xF9000000#32, 0#32] := by decide

/-! ### Decode errors and the host window, from 95_test_vectors.md L2 -/

theorem test_decode_errors :
    [0x00000000#32, 0x08000000#32, 0xFFFFFFFF#32, 0x01184401#32, 0x03088600#32, 0x20004000#32, 0x22F00001#32].map
      (fun w => outcome w []) =
    [(0x00000106#32, 0x00000000#32), (0x00000106#32, 0x08000000#32), (0x00000106#32, 0xFFFFFFFF#32),
     (0x00000206#32, 0x01184401#32), (0x00000206#32, 0x03088600#32), (0x00000206#32, 0x20004000#32),
     (0x00000206#32, 0x22F00001#32)] := by decide

theorem test_group_range :
    [0x22F00000#32, 0x10EF8000#32, 0x21074000#32, 0x20E00000#32, 0x12FF4000#32].map (fun w => outcome w []) =
    [(0x00000306#32, 0x22F00000#32), (0x00000306#32, 0x10EF8000#32), (0x00000306#32, 0x21074000#32),
     (0x00000002#32, 0x00000000#32), (0x00000002#32, 0x00000000#32)] := by decide

theorem test_host_reads :
    [0x90#8, 0x80#8, 0xA0#8, 0x02#8].map (fun off => (after (hosted [memRead off] State.reset)).reply) =
    [some (.data 0x01202018#32), some (.data 0#32), some (.data 0#32), some .busError] := by decide

theorem test_host_narrow_accesses :
    (after (hosted [⟨0x84#8, 1, .read⟩] State.reset)).reply = some .busError ∧
    (after (hosted [⟨0x04#8, 4, .write 0b0011#4 5#32⟩] State.reset)).reply = some .busError ∧
    (after (hosted [⟨0x04#8, 4, .write 0b0011#4 5#32⟩] State.reset)).regs = State.reset.regs := by decide

theorem test_ctrl_write_and_soft_reset :
    (after (hosted [memWrite 0x88#8 3#32] State.reset)).ctrlWord = 3#32 ∧
    (let t := after (hosted [memWrite 0x88#8 7#32] { loaded 0x01184400#32 [] with ieDone := true, ieErr := true })
     t.statusWord = 0#32 ∧ t.ctrlWord = 0#32 ∧ t.inflight = none) := by decide

theorem test_status_write_one_to_clear :
    (let s : State := { State.reset with busy := true, done := true, err := true, ovr := true, ecode := 4#4, errcmd := 7#32 }
     let t := after (hosted [memWrite 0x84#8 0xFFFFFFFF#32] s)
     s.statusWord = 0x0000040F#32 ∧ t.statusWord = 0x00000001#32 ∧ t.errcmd = 0#32) ∧
    (let s : State := { State.reset with done := true, err := true, ecode := 4#4 }
     (after (hosted [memWrite 0x84#8 2#32] s)).statusWord = 0x00000404#32) := by decide

theorem test_busy_hazard :
    (let t := after (hosted [memWrite 0x04#8 5#32] (loaded 0x01184400#32 [(1, 3#32)]))
     t.regs[1] = 3#32 ∧ t.ovr = true) ∧
    (after (hosted [memWrite 0x80#8 0x20000000#32] (loaded 0x01184400#32 []))).inflight =
      (loaded 0x01184400#32 []).inflight := by decide

/-- Program P4: a second error while ERR = 1 keeps the first, and `irq` follows IE_ERR. -/
theorem test_first_error_kept :
    (let s := { loaded 0x00000000#32 [] with err := true, ecode := 4#4, errcmd := 0x05184400#32, ieErr := true }
     (after s).statusWord = 0x00000406#32 ∧ (after s).errcmd = 0x05184400#32 ∧ (after s).irq = true) := by decide

theorem test_with_fetch_word : (after (State.reset.withFetchWord 32 0x20E00000)).regs[28] = 0x01000000#32 := by
  decide

/-! ### Witnesses: for each obligation with hypotheses, states and operands that meet them, at the boundaries -/

/-- Every step answers the state that `after` names. -/
theorem step_after (s : State) : step s = .next (after s) := by
  rcases step_cases s with ⟨-, -, e⟩ | ⟨c, r, -, -, -, e⟩ | ⟨u, rest, -, e⟩ | ⟨rest, -, e⟩ <;> rw [after, e]

/-- The command `w` in flight over the reset registers, and the engine's turn next. -/
def waiting (w : Word) : State := loaded w []

theorem waiting_inflight (w : Word) : (waiting w).inflight = some ⟨w, State.reset.regs⟩ := rfl

theorem waiting_engineNext (w : Word) : (waiting w).EngineNext := .inr ⟨[], rfl⟩

theorem waiting_consistent (w : Word) : (waiting w).Consistent :=
  ⟨rfl, fun _ h => by cases h; rfl, fun _ => ⟨rfl, rfl⟩, fun h => nomatch h⟩

/-- HardwareResetAbortsTheCommand. -/
theorem test_witness_hardware_reset : ∃ (s : State) (rest : List Turn), s.turns = .hardReset :: rest ∧
    s.inflight ≠ none ∧ s.busy = true ∧ s.regs ≠ State.reset.regs :=
  ⟨{ loaded 0x01184400#32 [(1, 5#32)] with turns := [.hardReset, .engine] }, [.engine], rfl, nofun, rfl,
    by decide⟩

/-- StepKeepsConsistent. -/
theorem test_witness_consistent : ∃ s t : State, s.Consistent ∧ step s = .next t ∧ s.busy = true ∧ t.busy = false :=
  ⟨waiting 0x01184400#32, _, waiting_consistent _, step_after _, rfl, by decide⟩

/-- StepKeepsErrorRecordTruthful: a failing command, and a step with ERR already 1. -/
theorem test_witness_error_record :
    (∃ s t : State, (s.err = true → errorOf s.errcmd s.ecode) ∧ step s = .next t ∧ t.err = true ∧ s.err = false) ∧
    (∃ s t : State, s.err = true ∧ errorOf s.errcmd s.ecode ∧ step s = .next t ∧ t.err = true) :=
  ⟨⟨waiting 0x00000000#32, _, nofun, step_after _, by decide, rfl⟩,
   ⟨{ waiting 0x01184400#32 with err := true, ecode := 1#4 }, _, rfl, rfl, step_after _, by decide⟩⟩

/-- StepKeepsUnwrittenAtReset. -/
theorem test_witness_unwritten : ∃ s t : State, s.UnwrittenAtReset ∧ step s = .next t ∧ t.written[3] = true :=
  ⟨waiting 0x01184400#32, _, by unfold State.UnwrittenAtReset; decide, step_after _, by decide⟩

/-- StepExecutesTheDecodedCommand. -/
theorem test_witness_step_executes :
    (∃ (s : State) (c : Command) (i : Instr), s.inflight = some c ∧ decode c.word = .ok i ∧ s.EngineNext) ∧
    (∃ (w : Nat) (i : Instr), decode (BitVec.ofNat 32 w) = .ok i) :=
  ⟨⟨waiting 0x20E00000#32, _, .qid 28, rfl, by decide, waiting_engineNext _⟩, ⟨0x20E00000, .qid 28, by decide⟩⟩

/-- CommandInFlightCompletes: with host turns before the engine's, and with no turn left. -/
theorem test_witness_in_flight_completes :
    (∃ (s : State) (c : Command), s.Consistent ∧ s.inflight = some c ∧ (∀ u ∈ s.turns, u.resets = false) ∧
      s.turns.length = 2) ∧
    (∃ (s : State) (c : Command), s.Consistent ∧ s.inflight = some c ∧ (∀ u ∈ s.turns, u.resets = false) ∧
      s.turns = []) :=
  have hc := waiting_consistent 0x01184400#32
  ⟨⟨hosted [memRead 0x84#8, memWrite 0x88#8 3#32] (waiting 0x01184400#32), _,
    ⟨hc.busy, hc.snapshot, hc.noError, hc.errorCode⟩, rfl, by decide, rfl⟩,
   ⟨hosted [] (waiting 0x01184400#32), _, ⟨hc.busy, hc.snapshot, hc.noError, hc.errorCode⟩, rfl, by decide, rfl⟩⟩

/-- IdleEngineChangesNothing. -/
theorem test_witness_idle : (State.reset.turns = [] ∧ State.reset.inflight = none) ∧ State.reset.ended = true ∧
    (∃ (s : State) (rest : List Turn), s.inflight = none ∧ s.turns = .engine :: rest) :=
  ⟨⟨rfl, rfl⟩, by decide, { State.reset with turns := [.engine] }, [], rfl, rfl⟩

/-- DecodeOfEncodeIsTheCommand, at the largest operand of every kind. -/
theorem test_witness_well_formed : (Instr.add 31 31 31).wellFormed = true ∧ (Instr.vcross 29 29 29).wellFormed = true ∧
    (Instr.qmul 28 28 28).wellFormed = true ∧ (Instr.qrot 29 28 29).wellFormed = true := by decide

/-- IllegalOpcodeCompletesWithCodeOne, at the ends of each range of illegal opcodes. -/
theorem test_witness_illegal_opcode : ∀ w ∈ [0x00000000#32, 0x08000000#32, 0x0F000000#32, 0x14000000#32, 0x1FFFFFFF#32,
      0x23000000#32, 0xFFFFFFFF#32],
    (waiting w).inflight = some ⟨w, State.reset.regs⟩ ∧ (waiting w).EngineNext ∧ Op.ofCode? (opcField w) = none := by
  intro w hw
  refine ⟨waiting_inflight w, waiting_engineNext w, ?_⟩
  simp only [List.mem_cons, List.not_mem_nil, or_false] at hw
  rcases hw with rfl | rfl | rfl | rfl | rfl | rfl | rfl <;> decide

/-- ReservedBitsCompleteWithCodeTwo: bits 8:0, an unused b, an unused a. -/
theorem test_witness_reserved_bits :
    (∀ w : Word, (waiting w).inflight = some ⟨w, State.reset.regs⟩ ∧ (waiting w).EngineNext) ∧
    (Op.ofCode? (opcField 0x01184401#32) = some .add ∧ zField 0x01184401#32 ≠ 0#9) ∧
    (Op.ofCode? (opcField 0x03088600#32) = some .neg ∧ bField 0x03088600#32 ≠ 0) ∧
    (Op.ofCode? (opcField 0x06000200#32) = some .fromint ∧ bField 0x06000200#32 ≠ 0) ∧
    (Op.ofCode? (opcField 0x20000200#32) = some .qid ∧ bField 0x20000200#32 ≠ 0) ∧
    (Op.ofCode? (opcField 0x20004000#32) = some .qid ∧ aField 0x20004000#32 ≠ 0) :=
  ⟨fun w => ⟨waiting_inflight w, waiting_engineNext w⟩, by decide⟩

/-- GroupRangeCompletesWithCodeThree: each field of each group kind, at the first base out of range. -/
theorem test_witness_group_range :
    (∀ w : Word, (waiting w).inflight = some ⟨w, State.reset.regs⟩ ∧ (waiting w).EngineNext) ∧
    (Op.ofCode? (opcField 0x10F00000#32) = some .vadd ∧ reservedNonzero .vadd 0x10F00000#32 = false ∧
      (dField 0x10F00000#32).val = 30) ∧
    (Op.ofCode? (opcField 0x20E80000#32) = some .qid ∧ reservedNonzero .qid 0x20E80000#32 = false ∧
      (dField 0x20E80000#32).val = 29) ∧
    (reservedNonzero .vadd 0x10EF8000#32 = false ∧ (aField 0x10EF8000#32).val = 30) ∧
    (reservedNonzero .qmul 0x21074000#32 = false ∧ (aField 0x21074000#32).val = 29) ∧
    (reservedNonzero .vdot 0x12003C00#32 = false ∧ (bField 0x12003C00#32).val = 30) ∧
    (reservedNonzero .qmul 0x21003A00#32 = false ∧ (bField 0x21003A00#32).val = 29) ∧
    (Instr.qrot 30 28 29).wellFormed = false :=
  ⟨fun w => ⟨waiting_inflight w, waiting_engineNext w⟩, by decide⟩

/-- ErrorPriority: each clause. -/
theorem test_witness_error_priority :
    (∀ w : Word, (waiting w).inflight = some ⟨w, State.reset.regs⟩ ∧ (waiting w).EngineNext) ∧
    Op.ofCode? (opcField 0x00000001#32) = none ∧
    (Op.ofCode? (opcField 0x22F00001#32) = some .qrot ∧ reservedNonzero .qrot 0x22F00001#32 = true) ∧
    (Op.ofCode? (opcField 0x22F00000#32) = some .qrot ∧ reservedNonzero .qrot 0x22F00000#32 = false ∧
      (Instr.qrot 30 0 0).wellFormed = false ∧ decode 0x22F00000#32 = .error .groupRange) ∧
    (decode 0x05184400#32 = .ok (.div 3 1 2) ∧ State.reset.regs[2] = 0#32) ∧
    (decode 0x07100200#32 = .ok (.toints 2 0 1) ∧ State.reset.regs[1] = 0#32) ∧
    2 ^ 24 < (0x01000001#32 : Word).toInt.natAbs :=
  ⟨fun w => ⟨waiting_inflight w, waiting_engineNext w⟩, by decide⟩

/-- EachCommandFailsOnlyWithItsCodes. -/
theorem test_witness_failing_code : ∃ (s t : State) (c : Command), s.inflight = some c ∧ s.EngineNext ∧ s.err = false ∧
    step s = .next t ∧ t.err = true ∧ Op.ofCode? (opcField c.word) = some .div ∧ t.ecode = 4#4 :=
  ⟨waiting 0x05184400#32, _, _, rfl, waiting_engineNext _, rfl, step_after _, by decide⟩

/-- The decoding clause of the fourteen command obligations: a word with each opcode, with bits 8:0 zero and not. -/
theorem test_witness_opcodes : ∀ k ∈ [0x01#8, 0x02#8, 0x03#8, 0x04#8, 0x05#8, 0x06#8, 0x07#8, 0x10#8, 0x11#8, 0x12#8, 0x13#8,
      0x20#8, 0x21#8, 0x22#8],
    opcField (k ++ 0#24) = k ∧ zField (k ++ 0#24) = 0#9 ∧ opcField (k ++ 1#24) = k ∧ zField (k ++ 1#24) ≠ 0#9 := by
  decide

/-- DivWritesTheTruncatedQuotient: a divisor of the smallest magnitude, and zero. -/
theorem test_witness_div :
    (∃ s : State, (s.snapshotOf (.div 3 1 2))[2].toInt ≠ 0) ∧ (∃ s : State, (s.snapshotOf (.div 3 1 2))[2] = 0#32) ∧
    (1#32 : Word) ≠ 0#32 :=
  ⟨⟨State.reset.writeReg 2 0xFFFFFFFF#32, by decide⟩, ⟨State.reset, by decide⟩, by decide⟩

/-- FromintWritesTheShiftedInteger: both ends of the exact range. -/
theorem test_witness_fromint : (0xFFFFFF80#32 : Word).toInt = -128 ∧ (0x0000007F#32 : Word).toInt = 127 := by decide

/-- TointsWritesTheScaledInteger: the largest scale that runs, both errors, and each clause on the words. -/
theorem test_witness_toints :
    (∃ s : State, (s.snapshotOf (.toints 2 0 1))[1].toInt = 2 ^ 24 ∧
      Int.tdiv (2 ^ 24) (s.snapshotOf (.toints 2 0 1))[1].toInt ≠ 0) ∧
    (∃ s : State, (s.snapshotOf (.toints 2 0 1))[1].toInt = 0) ∧
    (∃ s : State, (s.snapshotOf (.toints 2 0 1))[1].toInt.natAbs = 2 ^ 24 + 1) ∧
    (∃ s : State, 2 ^ 24 < (s.snapshotOf (.toints 2 0 1))[1].toInt.natAbs ∧
      (s.snapshotOf (.toints 2 0 1))[1] = 0x80000000#32) ∧
    (1000#32 : Word) ≠ 0x80000000#32 ∧ scaleDivisor 0xFF7FFFFF#32 = -1 ∧ scaleDivisor 0xFF800000#32 = -2 :=
  ⟨⟨State.reset.writeReg 1 0x01000000#32, by decide⟩, ⟨State.reset, by decide⟩,
   ⟨State.reset.writeReg 1 0x01000001#32, by decide⟩, ⟨State.reset.writeReg 1 0x80000000#32, by decide⟩,
   by decide⟩

/-- The Vector3 and quaternion command obligations: the largest bases, and the first base out of range in each field. -/
theorem test_witness_group_bases :
    (29 : RegIdx).val ≤ 29 ∧ 29 < (30 : RegIdx).val ∧ (28 : RegIdx).val ≤ 28 ∧ 28 < (29 : RegIdx).val ∧
    decode 0x13EF7A00#32 = .ok (.vcross 29 29 29) ∧ decode 0x13F00000#32 = .error .groupRange ∧
    decode 0x21E73800#32 = .ok (.qmul 28 28 28) ∧ decode 0x22EF3A00#32 = .ok (.qrot 29 28 29) := by decide

/-- MulFloorsAtEverySign: a product of each sign, inexact, and a first operand that negates. -/
theorem test_witness_mul_signs :
    0 ≤ (3#32 : Word).toInt * (0x00800000#32 : Word).toInt ∧
    ((0xFFFFFFFD#32 : Word).toInt * (0x00800000#32 : Word).toInt < 0 ∧
      (0xFFFFFFFD#32 : Word).toInt * (0x00800000#32 : Word).toInt % 2 ^ 24 ≠ 0) ∧
    (0x7FFFFFFF#32 : Word) ≠ 0x80000000#32 := by decide

/-- DivCommutesWithNegation. -/
theorem test_witness_div_negation : (1#32 : Word) ≠ 0#32 ∧ (0x80000001#32 : Word) ≠ 0x80000000#32 ∧
    (State.reset.snapshotOf (.div 3 1 2))[2] = 0#32 := by decide

/-- RoundingErrorIsBelowOneUlp: the extreme results in range of each function. -/
theorem test_witness_rounding :
    (0x7FFFFFFF#32 : Word).toInt + (0#32 : Word).toInt = 2 ^ 31 - 1 ∧
    (0x80000000#32 : Word).toInt - (0#32 : Word).toInt = -2 ^ 31 ∧ -2 ^ 31 < (0x80000001#32 : Word).toInt ∧
    (0x80000000#32 : Word).toInt * (0x01000000#32 : Word).toInt = -2 ^ 55 ∧
    Int.tdiv ((0x80000000#32 : Word).toInt * 2 ^ 24) (0x01000000#32 : Word).toInt = -2 ^ 31 := by decide

/-- VectorSymmetriesAndErrorBounds: sums of floored products that stay in range. -/
theorem test_witness_vector_bounds :
    let p := (0x01000000#32 : Word).toInt * (0x7F000000#32 : Word).toInt
    let q := (0xFF000000#32 : Word).toInt * (0x7F000000#32 : Word).toInt
    (-2 ^ 31 : Int) ≤ p / 2 ^ 24 + q / 2 ^ 24 + p / 2 ^ 24 ∧ p / 2 ^ 24 + q / 2 ^ 24 + p / 2 ^ 24 < 2 ^ 31 ∧
    (-2 ^ 31 : Int) ≤ p / 2 ^ 24 - p / 2 ^ 24 ∧ p / 2 ^ 24 - p / 2 ^ 24 < 2 ^ 31 := by decide

/-- CommandChangesOnlyItsDestination: a register and window offsets outside the destination, STATUS and ERRCMD. -/
theorem test_witness_command_frame : (∃ t, exec (.qid 28) State.reset = .next t) ∧ (27 : RegIdx) ∉ writesOf (.qid 28) ∧
    (∀ off ∈ [0x00#8, 0x6F#8, 0x80#8, 0x8B#8, 0x90#8, 0xFF#8], (∀ r ∈ writesOf (.qid 28), windowReg off ≠ .gpr r) ∧
      windowReg off ≠ .status ∧ windowReg off ≠ .errcmd) :=
  ⟨⟨_, rfl⟩, by decide, by decide⟩

/-- CompletionSucceedsOrFailsPrecisely: a failing and a succeeding completion. -/
theorem test_witness_completion :
    (∃ (s t : State) (c : Command), s.inflight = some c ∧ s.EngineNext ∧ step s = .next t ∧ t.err = true) ∧
    (∃ (s t : State) (c : Command), s.inflight = some c ∧ s.EngineNext ∧ step s = .next t ∧ t.err = false) :=
  ⟨⟨waiting 0x00000000#32, _, _, rfl, waiting_engineNext _, step_after _, by decide⟩,
   ⟨waiting 0x20E00000#32, _, _, rfl, waiting_engineNext _, step_after _, by decide⟩⟩

/-- ErrorIsAcknowledgedByWritingOne: each clause. -/
theorem test_witness_acknowledge :
    (∃ (s : State) (v : Word) (rest : List Turn), s.turns = .host (memWrite 0x84#8 v) :: rest ∧ v[2] = true) ∧
    (∃ s : State, s.err = true) ∧
    (∃ (s : State) (c : Command) (e : CmdError), s.inflight = some c ∧ s.EngineNext ∧ s.err = true ∧
      decode c.word = .error e) :=
  ⟨⟨hosted [memWrite 0x84#8 4#32] State.reset, 4#32, [], rfl, by decide⟩, ⟨{ State.reset with err := true }, rfl⟩,
   ⟨{ waiting 0x00000000#32 with err := true, ecode := 4#4 }, _, .illegalOpcode, rfl, .inr ⟨[], rfl⟩, rfl, by decide⟩⟩

/-- ResultIsReadAfterCompletion: the state after QID q28, and the read of r31 next. -/
theorem test_witness_result_read : ∃ (s t : State) (ws : List RegWrite) (p : RegWrite) (rest : List Turn),
    Succeeded s t ws ∧ p ∈ ws ∧ t.turns = .host (memRead (regOffset p.1)) :: rest :=
  ⟨hosted [memRead 0x7C#8] State.reset, _, quatWrites 28 ⟨0x01000000#32, ⟨0#32, 0#32, 0#32⟩⟩, (31, 0#32), [],
    complete_ok_succeeded 0x20E00000#32 _ _ (quatWrites_nodup _ _), by decide, rfl⟩

/-- CmdWriteAcceptsOrOverruns and HostRegisterAccess: BUSY = 0 and BUSY = 1, a written and an unwritten register, at
both ends of the register file. -/
theorem test_witness_host_register_access :
    (∃ (s : State) (w : Word), s.turns = .host (memWrite 0x80#8 w) :: [] ∧ s.busy = false) ∧
    (∃ (s : State) (w : Word), s.turns = .host (memWrite 0x80#8 w) :: [] ∧ s.busy = true) ∧
    (∃ s : State, s.turns = .host (memRead 0x80#8) :: []) ∧
    (∀ i ∈ [(0 : RegIdx), 31],
      (∃ (s : State) (v : Word), s.turns = .host (memWrite (regOffset i) v) :: [] ∧ s.busy = false) ∧
      (∃ (s : State) (v : Word), s.turns = .host (memWrite (regOffset i) v) :: [] ∧ s.busy = true) ∧
      (∃ s : State, s.turns = .host (memRead (regOffset i)) :: [] ∧ s.written[i] = true) ∧
      (∃ s : State, s.turns = .host (memRead (regOffset i)) :: [] ∧ s.written[i] = false)) := by
  refine ⟨⟨hosted [memWrite 0x80#8 0#32] State.reset, 0#32, rfl, rfl⟩,
    ⟨hosted [memWrite 0x80#8 0#32] (waiting 0#32), 0#32, rfl, rfl⟩, ⟨hosted [memRead 0x80#8] State.reset, rfl⟩, ?_⟩
  intro i _
  exact ⟨⟨hosted [memWrite (regOffset i) 1#32] State.reset, 1#32, rfl, rfl⟩,
    ⟨hosted [memWrite (regOffset i) 1#32] (waiting 0#32), 1#32, rfl, rfl⟩,
    ⟨hosted [memRead (regOffset i)] (State.reset.writeReg i 1#32), rfl, by
      show (State.reset.writeReg i 1#32).written[i] = true
      rw [writeReg_written_get, if_pos rfl]⟩,
    ⟨hosted [memRead (regOffset i)] State.reset, rfl, by
      show State.reset.written[i] = false
      revert i
      decide⟩⟩

/-- StatusReadAndWriteOneToClear and CtrlEnablesAndSoftReset: each access, with CTRL bit 2 clear and set. -/
theorem test_witness_status_and_ctrl :
    (∃ s : State, s.turns = .host (memRead 0x84#8) :: []) ∧ (∃ s : State, s.turns = .host (memRead 0x88#8) :: []) ∧
    (∃ (s : State) (v : Word), s.turns = .host (memWrite 0x84#8 v) :: [] ∧ v[1] = true ∧ v[2] = false) ∧
    (∃ (s : State) (v : Word), s.turns = .host (memWrite 0x88#8 v) :: [] ∧ v[2] = false ∧ s.busy = true) ∧
    (∃ (s : State) (v : Word), s.turns = .host (memWrite 0x88#8 v) :: [] ∧ v[2] = true ∧ s.busy = true) :=
  ⟨⟨hosted [memRead 0x84#8] State.reset, rfl⟩, ⟨hosted [memRead 0x88#8] State.reset, rfl⟩,
   ⟨hosted [memWrite 0x84#8 2#32] State.reset, 2#32, rfl, by decide, by decide⟩,
   ⟨hosted [memWrite 0x88#8 3#32] (waiting 0#32), 3#32, rfl, by decide, rfl⟩,
   ⟨hosted [memWrite 0x88#8 4#32] (waiting 0#32), 4#32, rfl, by decide, rfl⟩⟩

/-- ReadOnlyAndReservedOffsets: the ends of each range of offsets. -/
theorem test_witness_read_only_offsets :
    (∀ off : BitVec 8, (hosted [memRead off] State.reset).turns = .host (memRead off) :: []) ∧
    (∀ (off : BitVec 8) (v : Word), (hosted [memWrite off v] State.reset).turns = .host (memWrite off v) :: []) ∧
    (∀ off ∈ [0x94#8, 0xFC#8], off.toNat % 4 = 0 ∧ 0x94 ≤ off.toNat) ∧
    (∀ off ∈ [0x8C#8, 0x90#8, 0x94#8, 0xFC#8], off.toNat % 4 = 0 ∧ 0x8C ≤ off.toNat) :=
  ⟨fun _ => rfl, fun _ _ => rfl, by decide, by decide⟩

/-- UnsupportedAccessIsABusError: a wrong size, a misaligned offset, three lanes of four; and a supported write. -/
theorem test_witness_unsupported :
    (∀ t : Transaction, (hosted [t] State.reset).turns = .host t :: []) ∧
    (⟨0x84#8, 1, .read⟩ : Transaction).size ≠ 4 ∧ (memRead 0x02#8).off.toNat % 4 ≠ 0 ∧
    (∃ lanes v, (⟨0x04#8, 4, .write 0b0111#4 5#32⟩ : Transaction).access = .write lanes v ∧ lanes ≠ 0b1111#4) ∧
    ((memWrite 0xFC#8 5#32).size = 4 ∧ (memWrite 0xFC#8 5#32).off.toNat % 4 = 0 ∧
      ∀ lanes v, (memWrite 0xFC#8 5#32).access = .write lanes v → lanes = 0b1111#4) :=
  ⟨fun _ => rfl, by decide, by decide, ⟨_, _, rfl, by decide⟩, by decide, by decide, fun _ _ h => by cases h; rfl⟩

/-- ReadsHaveNoSideEffect: a supported and an unsupported read. -/
theorem test_witness_reads :
    (∀ t : Transaction, (hosted [t] (waiting 0#32)).turns = .host t :: []) ∧ (memRead 0xFC#8).access = .read ∧
    (memRead 0xFF#8).access = .read ∧ (memRead 0xFF#8).supported = false :=
  ⟨fun _ => rfl, rfl, rfl, by decide⟩

/-- InterruptSourcesAreSticky: each source set before and clear after. -/
theorem test_witness_interrupt_sources :
    (∃ s t : State, step s = .next t ∧ s.done = true ∧ t.done = false) ∧
    (∃ s t : State, step s = .next t ∧ s.err = true ∧ t.err = false) ∧
    (∃ s t : State, step s = .next t ∧ s.ovr = true ∧ t.ovr = false) :=
  ⟨⟨hosted [memWrite 0x84#8 2#32] { State.reset with done := true }, _, step_after _, by decide⟩,
   ⟨hosted [memWrite 0x84#8 4#32] { State.reset with err := true }, _, step_after _, by decide⟩,
   ⟨hosted [memWrite 0x88#8 4#32] { State.reset with ovr := true }, _, step_after _, by decide⟩⟩

/-- OverrunRecordsOnlyADroppedWrite. -/
theorem test_witness_overrun :
    (∃ s t : State, step s = .next t ∧ s.ovr = false ∧ t.ovr = true) ∧
    (∀ u ∈ [memWrite 0x00#8 1#32, memWrite 0x7C#8 1#32, memWrite 0x80#8 1#32],
      (hosted [u] (waiting 0#32)).turns = .host u :: [] ∧ u.dropped = true ∧ (hosted [u] (waiting 0#32)).busy = true) :=
  ⟨⟨hosted [memWrite 0x00#8 1#32] (waiting 0#32), _, step_after _, by decide⟩, by decide⟩

/-- AcceptedCommandIsFixed: a step of each kind with a command in flight. -/
theorem test_witness_accepted_command : ∀ u ∈ [Turn.engine, .hardReset, .host (memWrite 0x84#8 0xF#32)],
    ∃ (s t : State) (c : Command), s.Consistent ∧ s.inflight = some c ∧ step s = .next t ∧ s.turns = [u] := by
  intro u _
  have hc := waiting_consistent 0x01184400#32
  exact ⟨{ waiting 0x01184400#32 with turns := [u] }, _, _, ⟨hc.busy, hc.snapshot, hc.noError, hc.errorCode⟩, rfl,
    step_after _, rfl⟩

/-- UnpolledWriteHasTwoRuns, GroupsAndByteLanes. -/
theorem test_witness_two_runs_and_groups :
    State.reset.inflight = none ∧ State.reset.busy = false ∧ State.reset.ovr = false ∧ (29 : Nat) ≤ 29 ∧ (28 : Nat) ≤ 28 := by
  decide

/-- RunEndsAfterTheLastAccess: an ended state with a reset left, one that is not ended because of a command in flight or
of an access left, and a run that ends with fewer steps than are allowed. -/
theorem test_witness_run_end :
    (let s : State := { State.reset with done := true, turns := [.engine, .hardReset] }
     s.ended = true ∧ ∀ t : Transaction, Turn.host t ∉ [Turn.hardReset]) ∧
    (waiting 0x20000000#32).inflight ≠ none ∧ (hosted [memRead 0x84#8] State.reset).ended = false ∧
    (∃ s t : State, runToEnd 0 s = .next t ∧ t.ended = true ∧ 0 ≤ 1) :=
  ⟨⟨by decide, by simp⟩, by decide, by decide, ⟨State.reset, State.reset, rfl, by decide, by decide⟩⟩

/-- R214: QID q0 completes after the host's write, the run is over, and the reset that comes later is no part of it. -/
theorem test_reset_after_the_end :
    (match runToEnd 3 { State.reset with turns := [.host (memWrite 0x80#8 0x20000000#32), .engine, .hardReset] } with
     | .next t => decide (t.endState.status = 0x00000002#32 ∧ t.endState.regs[0] = 0x01000000#32 ∧ t.turns = [.hardReset])
     | .fault _ => false
     | .refused _ => false) = true := by decide

end Sys2Proof.Tests
end

section
/-! PROOF. What the host's writes and the engine's completion can do, said once each, and the legal states
(10_state.md R25, R27, R29 to R31) that follow from these cases. -/

namespace Sys2Proof.Machine

/-! ### A host write of one window word (20_memory.md R51, R55) -/

/-- Everything that a host write of `v` to the window word `r` can make of the engine's state `s`. -/
inductive WriteEffect (r : WindowReg) (v : Word) (s : State) : State → Prop where
  /-- a write to ERRCMD, ID or a reserved offset does nothing -/
  | ignored : WriteEffect r v s s
  /-- a write to a register or to CMD is dropped while BUSY = 1 -/
  | dropped (busy : s.busy = true) : WriteEffect r v s s.recordOverrun
  /-- a register takes the word -/
  | register (i : RegIdx) (idle : s.busy = false) : WriteEffect r v s (s.writeReg i v)
  /-- the word is accepted as a command -/
  | accepted (idle : s.busy = false) : WriteEffect r v s (s.accept v)
  /-- STATUS bits are cleared -/
  | cleared (reg : r = .status) : WriteEffect r v s (s.hostWriteStatus v)
  /-- CTRL asks for the soft reset -/
  | softReset (reg : r = .ctrl) (srst : v[2] = true) : WriteEffect r v s s.softReset
  /-- CTRL's enables are set -/
  | enables (done err : Bool) : WriteEffect r v s { s with ieDone := done, ieErr := err }

theorem writeWord_effect (r : WindowReg) (v : Word) (s : State) : WriteEffect r v s (s.writeWord r v) := by
  cases r with
  | gpr i =>
    rw [State.writeWord, State.hostWriteReg]
    split
    · next hb => exact .dropped hb
    · next hb => exact .register i (Bool.eq_false_of_not_eq_true hb)
  | cmd =>
    rw [State.writeWord, State.hostWriteCmd]
    split
    · next hb => exact .dropped hb
    · next hb => exact .accepted (Bool.eq_false_of_not_eq_true hb)
  | status => exact .cleared rfl
  | ctrl =>
    rw [State.writeWord, State.hostWriteCtrl]
    split
    · next hv => exact .softReset rfl hv
    · exact .enables _ _
  | errcmd | id | reserved => exact .ignored

theorem WriteEffect.turns {r : WindowReg} {v : Word} {s u : State} (he : WriteEffect r v s u) : u.turns = s.turns := by
  cases he with
  | cleared => rw [hostWriteStatus_eq]
  | _ => rfl

@[simp] theorem transact_turns (t : Transaction) (s : State) : (s.transact t).turns = s.turns := by
  obtain ⟨_, _, e⟩ | ⟨_, v, -, -, e⟩ := transact_cases t s <;> rw [e]
  exact (writeWord_effect ..).turns

/-- A supported host write is a reset exactly when it sets bit 2 of CTRL (70_reset_and_hazards.md R202). -/
theorem resets_host_write {t : Transaction} {lanes : BitVec 4} {v : Word} (hs : t.supported = true)
    (ha : t.access = .write lanes v) :
    (Turn.host t).resets = true ↔ windowReg t.off = .ctrl ∧ v[2] = true := by
  simp [Turn.resets, hs, ha]

/-- A supported host write clears a STATUS bit exactly when it writes a 1 there (10_state.md R25). -/
theorem clearsStatusBit_host_write {t : Transaction} {lanes : BitVec 4} {v : Word} (k : Fin 32)
    (hs : t.supported = true) (ha : t.access = .write lanes v) :
    (Turn.host t).clearsStatusBit k = true ↔ windowReg t.off = .status ∧ v[k] = true := by
  simp [Turn.clearsStatusBit, hs, ha]

/-! ### The engine's completion (10_state.md R30) -/

/-- The errors of 60_exceptions.md R171 have the codes 1 to 5. -/
theorem code_range (e : CmdError) : 1 ≤ e.code.toNat ∧ e.code.toNat ≤ 5 := by
  cases e <;> decide

theorem errorOf_decode_error {w : Word} {e : CmdError} (h : decode w = .error e) : errorOf w e.code := by
  simp [errorOf, h]

theorem errorOf_div {w : Word} {i : Instr} (h : decode w = .ok i) (ho : i.op = .div) :
    errorOf w CmdError.divZero.code := by
  cases i <;> cases ho
  simp [errorOf, h]

theorem errorOf_toints {w : Word} {i : Instr} (h : decode w = .ok i) (ho : i.op = .toints) :
    errorOf w CmdError.scaleZero.code := by
  cases i <;> cases ho
  simp [errorOf, h]

/-- Every way the command in flight can complete: it writes exactly its destination registers, or it fails with an error
that its word can raise (60_exceptions.md R172). -/
theorem runCommand_ends {c : Command} {s : State} (h : s.inflight = some c) :
    (∃ i ws, decode c.word = .ok i ∧ ws.map Prod.fst = writesOf i ∧
      runCommand c s = .next (s.complete c.word (.ok ws))) ∨
    (∃ e, errorOf c.word e.code ∧ runCommand c s = .next (s.complete c.word (.error e))) := by
  cases hd : decode c.word with
  | error e => exact .inr ⟨e, errorOf_decode_error hd, runCommand_error s hd⟩
  | ok i =>
    have hends := exec_ends i s
    rw [commandOf_of_inflight i h, ← runCommand_ok s hd] at hends
    obtain ⟨-, ws, hws, hr⟩ | ⟨hw, -⟩ | ⟨ho, hr⟩ | ⟨ho, hr⟩ := hends
    · exact .inl ⟨i, ws, rfl, hws, hr⟩
    · rw [decode_wellFormed hd] at hw
      cases hw
    · exact .inr ⟨_, errorOf_div hd ho, hr⟩
    · exact .inr ⟨_, errorOf_toints hd ho, hr⟩

/-- The engine's turn with a command in flight, as `runCommand_ends` says it of `runCommand`. -/
theorem step_completes {s : State} {c : Command} (h : s.EngineNext) (hs : s.inflight = some c) :
    (∃ i ws, decode c.word = .ok i ∧ ws.map Prod.fst = writesOf i ∧
      step s = .next (s.popTurn.complete c.word (.ok ws))) ∨
    (∃ e, errorOf c.word e.code ∧ step s = .next (s.popTurn.complete c.word (.error e))) := by
  rw [step_engine_run h hs]
  exact runCommand_ends (s := s.popTurn) hs

/-! ### The legal states (10_state.md R25, R27, R29 to R31, 60_exceptions.md R171) -/

/-- What is the model's own, the turns, the answer and the draws, takes no part in `Consistent`. -/
theorem State.Consistent.ofPort {s : State} (h : s.Consistent) (turns : List Turn) (reply : Option Reply)
    (draws : Nat) : State.Consistent { s with turns := turns, reply := reply, draws := draws } :=
  ⟨h.busy, h.snapshot, h.noError, h.errorCode⟩

theorem hardwareReset_consistent (s : State) : s.hardwareReset.Consistent :=
  ⟨rfl, by simp, by simp, by simp⟩

theorem WriteEffect.consistent {r : WindowReg} {v : Word} {s u : State} (he : WriteEffect r v s u)
    (h : s.Consistent) : u.Consistent := by
  cases he with
  | ignored => exact h
  | dropped => exact ⟨h.busy, h.snapshot, h.noError, h.errorCode⟩
  | register i idle =>
    -- with BUSY = 0 the slot is empty: no snapshot can fall behind the registers
    have hslot : s.inflight = none := by simpa [idle] using h.busy
    exact ⟨h.busy, by simp [hslot], h.noError, h.errorCode⟩
  | accepted => exact ⟨rfl, by simp, h.noError, h.errorCode⟩
  | cleared =>
    rw [hostWriteStatus_eq]
    cases v[2] with
    | true => exact ⟨h.busy, h.snapshot, by simp, by simp⟩
    | false => exact ⟨h.busy, h.snapshot, by simpa using h.noError, by simpa using h.errorCode⟩
  | softReset => exact ⟨rfl, by simp, by simp, by simp⟩
  | enables => exact ⟨h.busy, h.snapshot, h.noError, h.errorCode⟩

theorem transact_consistent {s : State} (h : s.Consistent) (t : Transaction) : (s.transact t).Consistent := by
  obtain ⟨_, _, e⟩ | ⟨_, v, -, -, e⟩ := transact_cases t s <;> rw [e]
  · exact h.ofPort ..
  · exact ((writeWord_effect ..).consistent h).ofPort ..

theorem complete_consistent {s : State} (h : s.Consistent) (w : Word) (r : Result) : (s.complete w r).Consistent := by
  cases r with
  | ok ws =>
    rw [complete_ok, writeRegs_frame]
    exact ⟨rfl, by simp, h.noError, h.errorCode⟩
  | error e =>
    rw [complete_error]
    refine ⟨rfl, by simp, by simp, fun _ => ?_⟩
    cases he : s.err with
    | true => simpa [he] using h.errorCode he
    | false => simpa [he] using code_range e

/-- Settles O4, by the cases of a step: each host write, the completion and the reset keep `Consistent`. -/
theorem stepKeepsConsistent : Obligations.StepKeepsConsistent := by
  intro s t h hstep
  obtain ⟨-, -, e⟩ | ⟨c, r, -, -, -, e⟩ | ⟨u, rest, -, e⟩ | ⟨rest, -, e⟩ := step_cases s <;>
    cases hstep.symm.trans e
  · exact h.ofPort ..
  · exact complete_consistent (h.ofPort ..) c.word r
  · exact transact_consistent (h.ofPort ..) u
  · exact hardwareReset_consistent _

end Sys2Proof.Machine
end

section
/-! PROOF. The invariants and the progress of the engine (10_state.md R30, R33). -/

namespace Sys2Proof.Machine

/-! ### The error record (10_state.md R25, R27, 60_exceptions.md R171 to R173) -/

/-- While ERR is 1, ECODE is a code with which the word in ERRCMD can complete. -/
def State.ErrorTruthful (s : State) : Prop := s.err = true → errorOf s.errcmd s.ecode

theorem WriteEffect.errorTruthful {r : WindowReg} {v : Word} {s u : State} (he : WriteEffect r v s u)
    (h : s.ErrorTruthful) : u.ErrorTruthful := by
  cases he with
  | cleared =>
    -- a write to STATUS acknowledges the error or leaves the record
    rw [hostWriteStatus_eq]
    cases v[2] with
    | true => simp [State.ErrorTruthful]
    | false => simpa [State.ErrorTruthful] using h
  | softReset => simp [State.ErrorTruthful]
  | ignored | dropped | register | accepted | enables => exact h

theorem transact_errorTruthful {s : State} (h : s.ErrorTruthful) (t : Transaction) : (s.transact t).ErrorTruthful := by
  obtain ⟨_, _, e⟩ | ⟨_, v, -, -, e⟩ := transact_cases t s <;> rw [e]
  · exact h
  · exact (writeWord_effect ..).errorTruthful h

theorem complete_ok_errorTruthful {s : State} (h : s.ErrorTruthful) (w : Word) (ws : List RegWrite) :
    (s.complete w (.ok ws)).ErrorTruthful := by
  rw [complete_ok, writeRegs_frame]
  exact h

/-- The first error is recorded with its word, and a later one leaves the record (60_exceptions.md R173). -/
theorem complete_error_errorTruthful {s : State} (h : s.ErrorTruthful) {w : Word} {e : CmdError}
    (he : errorOf w e.code) : (s.complete w (.error e)).ErrorTruthful := by
  intro _
  rw [complete_error, State.retire_errcmd, State.retire_ecode, State.recordError_errcmd, State.recordError_ecode]
  cases hs : s.err with
  | true => exact h hs
  | false => exact he

/-- Settles O5, by the cases of a step: only a completion records an error, and it records one its word can raise. -/
theorem stepKeepsErrorRecordTruthful : Obligations.StepKeepsErrorRecordTruthful := by
  intro s t (h : s.ErrorTruthful) hstep
  obtain ⟨-, -, e⟩ | ⟨c, -, hn, hc, -, -⟩ | ⟨u, rest, -, e⟩ | ⟨rest, -, e⟩ := step_cases s
  · cases hstep.symm.trans e
    exact h
  · obtain ⟨i, ws, -, -, e⟩ | ⟨x, hx, e⟩ := step_completes hn hc <;> cases hstep.symm.trans e
    · exact complete_ok_errorTruthful (s := s.popTurn) h c.word ws
    · exact complete_error_errorTruthful (s := s.popTurn) h hx
  · cases hstep.symm.trans e
    exact transact_errorTruthful (s := { s with turns := rest }) h u
  · cases hstep.symm.trans e
    simp

/-! ### A command in flight completes (10_state.md R30, 70_reset_and_hazards.md R213, R214) -/

theorem WriteEffect.keeps_inflight {r : WindowReg} {v : Word} {s u : State} (he : WriteEffect r v s u)
    (hb : s.busy = true) (hr : ¬ (r = .ctrl ∧ v[2] = true)) : u.inflight = s.inflight := by
  cases he with
  | register _ idle | accepted idle => cases hb.symm.trans idle
  | softReset reg srst => exact absurd ⟨reg, srst⟩ hr
  | cleared => rw [hostWriteStatus_eq]
  | ignored | dropped | enables => rfl

/-- While BUSY = 1 a host access that is no soft reset leaves the slot as it is. -/
theorem transact_keeps_inflight {s : State} {t : Transaction} (hb : s.busy = true)
    (hr : (Turn.host t).resets = false) : (s.transact t).inflight = s.inflight := by
  obtain ⟨_, _, e⟩ | ⟨_, v, hs, ha, e⟩ := transact_cases t s <;> rw [e]
  refine (writeWord_effect (windowReg t.off) v s).keeps_inflight hb fun h => ?_
  cases hr.symm.trans ((resets_host_write hs ha).mpr h)

/-- On the engine's turn a command in flight completes in that one step. -/
theorem run_one_completes {s : State} {c : Command} (h : s.EngineNext) (hs : s.inflight = some c) :
    ∃ t : State, Host.Core.run core 1 s = .next t ∧ t.inflight = none ∧ t.done = true := by
  obtain ⟨r, hr⟩ := runCommand_complete (s := s.popTurn) hs
  obtain ⟨hret, -⟩ := complete_retired c.word r s.popTurn
  exact ⟨_, run_succ 0 ((step_engine_run h hs).trans hr), hret.inflight, hret.done⟩

/-- Settles O9, by induction on the turns: a host access that is no reset leaves the command in flight and one turn
fewer; the engine's turn, or the end of the turns, completes it. -/
theorem commandInFlightCompletes : Obligations.CommandInFlightCompletes := by
  intro s c hcons hc hres
  induction hts : s.turns generalizing s with
  | nil =>
    obtain ⟨t, hrun, ht⟩ := run_one_completes (.inl hts) hc
    exact ⟨1, t, le_rfl, by simp, hrun, ht⟩
  | cons u rest ih =>
    rw [hts] at hres
    cases u with
    | engine =>
      obtain ⟨t, hrun, ht⟩ := run_one_completes (.inr ⟨rest, hts⟩) hc
      exact ⟨1, t, le_rfl, by simp, hrun, ht⟩
    | hardReset => cases hres .hardReset List.mem_cons_self
    | host u =>
      have hbusy : s.busy = true := by simp [hcons.busy, hc]
      have hslot := transact_keeps_inflight (s := { s with turns := rest }) hbusy (hres _ List.mem_cons_self)
      obtain ⟨k, t, -, hk, hrun, ht⟩ := ih (State.transact u { s with turns := rest })
        (transact_consistent (hcons.ofPort ..) u) (hslot.trans hc)
        (fun w hw => hres w (List.mem_cons_of_mem _ (by simpa using hw))) (by simp)
      exact ⟨k + 1, t, by omega, by simpa using hk, (run_succ k (step_host hts)).trans hrun, ht⟩

/-! ### The frame of a command (10_state.md R30, 20_memory.md R51, R54, R57) -/

/-- Whatever a command ends in, a register that is none of its destinations keeps its word and its written mark. -/
theorem exec_frame {i : Instr} {s t : State} (h : exec i s = .next t) {r : RegIdx} (hr : r ∉ writesOf i) :
    t.regs[r] = s.regs[r] ∧ t.written[r] = s.written[r] := by
  have fails (w : Word) (e : CmdError) (h : exec i s = .next (s.complete w (.error e))) (h' : exec i s = .next t) :
      t.regs[r] = s.regs[r] ∧ t.written[r] = s.written[r] := by
    rw [h] at h'
    cases h'
    exact ⟨rfl, rfl⟩
  obtain ⟨-, ws, hws, e⟩ | ⟨-, e⟩ | ⟨-, e⟩ | ⟨-, e⟩ := exec_ends i s
  · rw [e] at h
    cases h
    have hother : ∀ p ∈ ws, p.1 ≠ r := fun p hp hpr => hr (hws ▸ hpr ▸ List.mem_map_of_mem hp)
    exact ⟨writeRegs_regs_other ws s r hother, writeRegs_written_other ws s r hother⟩
  all_goals exact fails _ _ e h

/-- Whatever a command ends in, it leaves OVR, CTRL and what is the model's own. -/
theorem exec_untouched {i : Instr} {s t : State} (h : exec i s = .next t) : Untouched s t := by
  obtain ⟨r, e⟩ := exec_complete i s
  rw [e] at h
  cases h
  exact (complete_retired _ r s).2

theorem ctrlWord_of_untouched {s t : State} (h : Untouched s t) : t.ctrlWord = s.ctrlWord := by
  rw [State.ctrlWord, State.ctrlWord, h.ieDone, h.ieErr]

/-- Settles O43: a window byte shows one window register, and each but STATUS and ERRCMD is in the frame. -/
theorem commandChangesOnlyItsDestination : Obligations.CommandChangesOnlyItsDestination := by
  intro i s t h
  have hu := exec_untouched h
  refine ⟨fun r hr => (exec_frame h hr).1, fun off hgpr hstatus herrcmd => ?_, ctrlWord_of_untouched hu, hu.turns⟩
  have hword : t.readWord (windowReg off) = s.readWord (windowReg off) := by
    cases hw : windowReg off with
    | gpr r =>
      obtain ⟨hregs, hwritten⟩ := exec_frame h (fun hr => hgpr r hr hw)
      simp only [State.readWord, hregs, hwritten, hu.draws]
    | ctrl => exact ctrlWord_of_untouched hu
    | status => exact absurd hw hstatus
    | errcmd => exact absurd hw herrcmd
    | cmd | id | reserved => rfl
  rw [State.windowByte, State.windowByte, hword]

/-! ### The interrupt sources (10_state.md R33, 60_exceptions.md R180) -/

/-- `flag` is a source that stands in STATUS bit `k` and that a write of 1 to that bit clears: the other writes of the
host but the soft reset keep it, and so does a completion. -/
structure StatusSource (flag : State → Bool) (k : Fin 32) : Prop where
  port : ∀ s turns reply draws, flag { s with turns := turns, reply := reply, draws := draws } = flag s
  complete : ∀ w r s, flag s = true → flag (s.complete w r) = true
  overrun : ∀ s, flag s = true → flag s.recordOverrun = true
  writeReg : ∀ i v s, flag (s.writeReg i v) = flag s
  accept : ∀ v s, flag (s.accept v) = flag s
  enables : ∀ s done err, flag { s with ieDone := done, ieErr := err } = flag s
  status : ∀ (v : Word) s, flag (s.hostWriteStatus v) = (flag s && !v[k])

theorem done_statusSource : StatusSource State.done 1 where
  port _ _ _ _ := rfl
  complete w r s _ := (complete_retired w r s).1.done
  overrun _ h := h
  writeReg _ _ _ := rfl
  accept _ _ := rfl
  enables _ _ _ := rfl
  status v s := by rw [hostWriteStatus_eq]; rfl

theorem err_statusSource : StatusSource State.err 2 where
  port _ _ _ _ := rfl
  complete w r s h := by
    cases r with
    | ok ws => rw [complete_ok, writeRegs_frame]; exact h
    | error e => rfl
  overrun _ h := h
  writeReg _ _ _ := rfl
  accept _ _ := rfl
  enables _ _ _ := rfl
  status v s := by rw [hostWriteStatus_eq]; rfl

theorem ovr_statusSource : StatusSource State.ovr 3 where
  port _ _ _ _ := rfl
  complete w r s h := (complete_retired w r s).2.ovr.trans h
  overrun _ _ := rfl
  writeReg _ _ _ := rfl
  accept _ _ := rfl
  enables _ _ _ := rfl
  status v s := by rw [hostWriteStatus_eq]; rfl

/-- A host write clears a source only at its STATUS bit or as a soft reset. -/
theorem StatusSource.cleared_by_write {flag : State → Bool} {k : Fin 32} (hf : StatusSource flag k) {r : WindowReg}
    {v : Word} {s u : State} (he : WriteEffect r v s u) (hs : flag s = true) (hu : flag u = false) :
    (r = .status ∧ v[k] = true) ∨ (r = .ctrl ∧ v[2] = true) := by
  cases he with
  | ignored => cases hs.symm.trans hu
  | dropped => cases (hf.overrun s hs).symm.trans hu
  | register i => cases hs.symm.trans ((hf.writeReg i v s).symm.trans hu)
  | accepted => cases hs.symm.trans ((hf.accept v s).symm.trans hu)
  | cleared reg => exact .inl ⟨reg, by simpa [hf.status, hs] using hu⟩
  | softReset reg srst => exact .inr ⟨reg, srst⟩
  | enables d e => cases hs.symm.trans ((hf.enables s d e).symm.trans hu)

/-- R180 for one source: a step clears it only on a host write of 1 to its STATUS bit, or on a reset. -/
theorem StatusSource.cleared_by_step {flag : State → Bool} {k : Fin 32} (hf : StatusSource flag k)
    (s t : State) (hstep : step s = .next t) (hs : flag s = true) (ht : flag t = false) :
    ∃ u rest, s.turns = u :: rest ∧ (u.clearsStatusBit k = true ∨ u.resets = true) := by
  have hpop (turns : List Turn) : flag { s with turns := turns } = true := (hf.port s turns s.reply s.draws).trans hs
  obtain ⟨-, -, e⟩ | ⟨c, r, -, -, -, e⟩ | ⟨u, rest, hts, e⟩ | ⟨rest, hts, -⟩ := step_cases s
  · cases hstep.symm.trans e
    cases (hpop _).symm.trans ht
  · cases hstep.symm.trans e
    cases (hf.complete c.word r s.popTurn (hpop _)).symm.trans ht
  · cases hstep.symm.trans e
    refine ⟨_, rest, hts, ?_⟩
    obtain ⟨reply, draws, e⟩ | ⟨lanes, v, hsup, ha, e⟩ := transact_cases u { s with turns := rest } <;>
      rw [e] at ht
    · cases ((hf.port s rest reply draws).trans hs).symm.trans ht
    · have hwrite := hf.cleared_by_write (writeWord_effect ..) (hpop rest) ((hf.port _ _ (some .ok) _).symm.trans ht)
      exact hwrite.imp (clearsStatusBit_host_write k hsup ha).mpr (resets_host_write hsup ha).mpr
  · exact ⟨_, rest, hts, .inr rfl⟩

/-- Settles O54: `irq` is R33's formula, and each of its three sources is cleared as `cleared_by_step` says. -/
theorem interruptSourcesAreSticky : Obligations.InterruptSourcesAreSticky :=
  ⟨fun s => by simp [State.irq], done_statusSource.cleared_by_step, err_statusSource.cleared_by_step,
    ovr_statusSource.cleared_by_step⟩

end Sys2Proof.Machine
end

section
/-! PROOF. The reset state, the engine's turn, and the words of the window (10_state.md R22 to R34, 20_memory.md R51,
R54). -/

namespace Sys2Proof.Machine

/-! ### Reset and the engine's turn -/

/-- Settles O1, by evaluating the reset state. -/
theorem resetHasTheStatedValues : Obligations.ResetHasTheStatedValues := by
  unfold Obligations.ResetHasTheStatedValues
  decide

/-- Settles O3: the slot is empty and ERR is 0. -/
theorem resetIsConsistent : Obligations.ResetIsConsistent :=
  ⟨rfl, by simp, by simp, by simp⟩

theorem withFetchWord_engineNext (s : State) (nbits w : Nat) : (s.withFetchWord nbits w).EngineNext :=
  .inr ⟨s.turns, rfl⟩

theorem withFetchWord_inflight (s : State) (nbits w : Nat) :
    (s.withFetchWord nbits w).inflight = some ⟨tableWord nbits w, s.regs⟩ := rfl

/-- With its engine turn taken off, the state that `withFetchWord` gives is that of acceptance (log 11). -/
theorem withFetchWord_popTurn (s : State) (nbits w : Nat) :
    (s.withFetchWord nbits w).popTurn = s.accept (tableWord nbits w) := rfl

theorem tableWord_32 (w : Nat) : tableWord 32 w = BitVec.ofNat 32 w :=
  BitVec.eq_of_toNat_eq (by simp [tableWord])

/-- Settles O8: the engine's turn runs the slot's word, and `withFetchWord` fills the slot and puts that turn first. -/
theorem stepExecutesTheDecodedCommand : Obligations.StepExecutesTheDecodedCommand := by
  have decoded (s : State) (c : Command) (i : Instr) (hc : s.inflight = some c) (hd : decode c.word = .ok i)
      (hn : s.EngineNext) : step s = exec i s.popTurn :=
    (step_engine_run hn hc).trans (runCommand_ok _ hd)
  refine ⟨decoded, fun s w i hd => ?_⟩
  rw [← tableWord_32] at hd ⊢
  rw [← withFetchWord_popTurn]
  exact decoded _ _ i (withFetchWord_inflight s 32 w) hd (withFetchWord_engineNext s 32 w)

/-! ### CMD (10_state.md R29) -/

theorem hostWriteCmd_idle {s : State} (w : Word) (h : s.busy = false) : s.hostWriteCmd w = s.accept w :=
  if_neg (by simp [h])

theorem hostWriteCmd_busy {s : State} (w : Word) (h : s.busy = true) : s.hostWriteCmd w = s.recordOverrun :=
  if_pos h

/-- Settles O47, by the two branches of the write to CMD, and the read of CMD. -/
theorem cmdWriteAcceptsOrOverruns : Obligations.CmdWriteAcceptsOrOverruns := by
  refine ⟨fun s w rest h hb => ?_, fun s w rest h hb => ?_, fun s rest h => ?_⟩
  · rw [step_write h (by decide), windowReg_cmd, State.writeWord, hostWriteCmd_idle w (by exact hb)]
    rfl
  · rw [step_write h (by decide), windowReg_cmd, State.writeWord, hostWriteCmd_busy w (by exact hb)]
    rfl
  · rw [step_read h (by decide), windowReg_cmd]
    rfl

/-! ### STATUS and CTRL (10_state.md R25, R26) -/

/-- The bits of STATUS from bit 0 upwards: BUSY, DONE, ERR, OVR, four reserved ones, ECODE. -/
theorem getLsbD_statusWord (s : State) (i : Nat) : s.statusWord.getLsbD i =
    if i = 0 then s.busy else if i = 1 then s.done else if i = 2 then s.err else if i = 3 then s.ovr
    else if i < 8 then false else s.ecode.getLsbD (i - 8) := by
  simp only [State.statusWord, BitVec.getLsbD_append, BitVec.getLsbD_ofBool, BitVec.getLsbD_zero]
  grind

theorem statusWord_flags (s : State) : s.statusWord[0] = s.busy ∧ s.statusWord[1] = s.done ∧
    s.statusWord[2] = s.err ∧ s.statusWord[3] = s.ovr := by
  simp only [← BitVec.getLsbD_eq_getElem, getLsbD_statusWord]
  simp

theorem statusWord_reserved_low (s : State) : s.statusWord.extractLsb' 4 4 = 0#4 := by
  refine BitVec.eq_of_getLsbD_eq fun i hi => ?_
  rw [BitVec.getLsbD_extractLsb', getLsbD_statusWord]
  grind

theorem statusWord_ecode (s : State) : s.statusWord.extractLsb' 8 4 = s.ecode := by
  refine BitVec.eq_of_getLsbD_eq fun i hi => ?_
  rw [BitVec.getLsbD_extractLsb', getLsbD_statusWord]
  grind

theorem statusWord_reserved_high (s : State) : s.statusWord.extractLsb' 12 20 = 0#20 := by
  refine BitVec.eq_of_getLsbD_eq fun i hi => ?_
  rw [BitVec.getLsbD_extractLsb', getLsbD_statusWord]
  have : s.ecode.getLsbD (12 + i - 8) = false := BitVec.getLsbD_of_ge _ _ (by omega)
  grind

/-- A bit that a write of 1 clears, in the two forms of R25. -/
theorem and_not_eq_ite (b c : Bool) : (b && !c) = if c then false else b := by
  cases c <;> simp

/-- Settles O49: the read, the bits of the word, and the write as `hostWriteStatus_eq` says it. -/
theorem statusReadAndWriteOneToClear : Obligations.StatusReadAndWriteOneToClear := by
  refine ⟨fun s rest h => ?_, fun s => ?_, fun s v rest h => ?_⟩
  · rw [step_read h (by decide), windowReg_status]
    rfl
  · obtain ⟨hbusy, hdone, herr, hovr⟩ := statusWord_flags s
    exact ⟨hbusy, hdone, herr, hovr, statusWord_reserved_low s, statusWord_ecode s, statusWord_reserved_high s⟩
  · rw [step_write h (by decide), windowReg_status, State.writeWord, hostWriteStatus_eq]
    simp only [and_not_eq_ite]

theorem getLsbD_ctrlWord (s : State) (i : Nat) :
    s.ctrlWord.getLsbD i = if i = 0 then s.ieDone else if i = 1 then s.ieErr else false := by
  simp only [State.ctrlWord, BitVec.getLsbD_append, BitVec.getLsbD_ofBool, BitVec.getLsbD_zero]
  grind

theorem ctrlWord_reserved (s : State) : s.ctrlWord.extractLsb' 2 30 = 0#30 := by
  refine BitVec.eq_of_getLsbD_eq fun i hi => ?_
  rw [BitVec.getLsbD_extractLsb', getLsbD_ctrlWord]
  grind

theorem ctrlWord_enables (s : State) : s.ctrlWord[0] = s.ieDone ∧ s.ctrlWord[1] = s.ieErr := by
  simp only [← BitVec.getLsbD_eq_getElem, getLsbD_ctrlWord]
  simp

theorem statusWord_softReset (s : State) : s.softReset.statusWord = 0#32 := by
  simp [State.statusWord]

theorem ctrlWord_softReset (s : State) : s.softReset.ctrlWord = 0#32 := by
  simp [State.ctrlWord]

/-- Settles O50: the write by its bit 2, the read, and the bits of the word. -/
theorem ctrlEnablesAndSoftReset : Obligations.CtrlEnablesAndSoftReset := by
  refine ⟨fun s v rest h hv => ?_, fun s v rest h hv => ?_, fun s rest h => ?_, fun s => ?_⟩
  · rw [step_write h (by decide), windowReg_ctrl, State.writeWord, hostWriteCtrl_enables _ hv]
  · rw [step_write h (by decide), windowReg_ctrl, State.writeWord, hostWriteCtrl_srst _ hv]
    have hs := statusWord_softReset { s with turns := rest }
    have hc := ctrlWord_softReset { s with turns := rest }
    exact ⟨_, rfl, rfl, hs, hc, rfl, rfl, rfl, rfl, rfl, rfl, rfl⟩
  · rw [step_read h (by decide), windowReg_ctrl]
    rfl
  · obtain ⟨hdone, herr⟩ := ctrlWord_enables s
    exact ⟨hdone, herr, ctrlWord_reserved s⟩

/-! ### Register groups and byte lanes (10_state.md R22, 20_memory.md R54) -/

/-- A register of a group that does not wrap is the one at base plus offset. -/
theorem getElem_groupReg (S : RegFile) (b : Nat) (k : RegIdx) (h : b + k.val < 32) :
    S[groupReg ⟨b, by omega⟩ k] = S[b + k.val] := by
  simp [groupReg, Fin.val_add, Nat.mod_eq_of_lt h]

theorem byteLanes_append (w : Word) : byteLane w 3 ++ byteLane w 2 ++ byteLane w 1 ++ byteLane w 0 = w := by
  simp only [byteLane]
  rw [BitVec.extractLsb'_append_extractLsb'_eq_extractLsb' (by rfl),
    BitVec.extractLsb'_append_extractLsb'_eq_extractLsb' (by rfl),
    BitVec.extractLsb'_append_extractLsb'_eq_extractLsb' (by rfl)]
  exact BitVec.extractLsb'_eq_self

/-- Settles O58, by `getElem_groupReg` at each register of the group, and `byteLanes_append`. -/
theorem groupsAndByteLanes : Obligations.GroupsAndByteLanes := by
  refine ⟨fun S b h => ?_, fun S b h => ?_, byteLanes_append⟩
  · rw [vectorAt, getElem_groupReg S b 1 (by simp; omega), getElem_groupReg S b 2 (by simp; omega)]
    rfl
  · rw [quatAt, getElem_groupReg S b 1 (by simp; omega), getElem_groupReg S b 2 (by simp; omega),
      getElem_groupReg S b 3 (by simp; omega)]
    rfl

end Sys2Proof.Machine
end

section
/-! PROOF. What a host access does to the window's words and to the command in flight (20_memory.md R51 to R56, R61,
R63). -/

namespace Sys2Proof.Machine

/-! ### The command in flight (20_memory.md R63) -/

/-- Settles O56, by the cases of a step: a host access that is no soft reset keeps the slot, because BUSY is 1. -/
theorem acceptedCommandIsFixed : Obligations.AcceptedCommandIsFixed := by
  intro s t c hcons hc hstep
  obtain ⟨hn, -, -⟩ | ⟨-, -, hn, -, -, -⟩ | ⟨u, rest, hts, e⟩ | ⟨rest, hts, -⟩ := step_cases s
  · exact .inr (.inl hn)
  · exact .inr (.inl hn)
  · cases hstep.symm.trans e
    cases hres : (Turn.host u).resets with
    | true => exact .inr (.inr ⟨_, rest, hts, hres⟩)
    | false =>
      have hbusy : s.busy = true := by simp [hcons.busy, hc]
      exact .inl ((transact_keeps_inflight (s := { s with turns := rest }) hbusy hres).trans hc)
  · exact .inr (.inr ⟨_, rest, hts, rfl⟩)

/-! ### Registers (20_memory.md R55, 70_reset_and_hazards.md R204) -/

theorem hostWriteReg_idle {s : State} (i : RegIdx) (v : Word) (h : s.busy = false) :
    s.hostWriteReg i v = s.writeReg i v :=
  if_neg (by simp [h])

theorem hostWriteReg_busy {s : State} (i : RegIdx) (v : Word) (h : s.busy = true) :
    s.hostWriteReg i v = s.recordOverrun :=
  if_pos h

theorem readWord_written {s : State} {i : RegIdx} (h : s.written[i] = true) : s.readWord (.gpr i) = s.regs[i] :=
  if_pos h

theorem readWord_unwritten {s : State} {i : RegIdx} (h : s.written[i] = false) :
    s.readWord (.gpr i) = Config.freeRead s.draws :=
  if_neg (by simp [h])

theorem drawsTaken_written {s : State} {i : RegIdx} (h : s.written[i] = true) : s.drawsTaken (.gpr i) = 0 :=
  if_pos h

theorem drawsTaken_unwritten {s : State} {i : RegIdx} (h : s.written[i] = false) : s.drawsTaken (.gpr i) = 1 :=
  if_neg (by simp [h])

/-- A step that is the read of a written register answers with the register's word. -/
theorem step_read_written {s : State} {i : RegIdx} {rest : List Turn}
    (h : s.turns = .host (memRead (regOffset i)) :: rest) (hw : s.written[i] = true) :
    step s = .next { s with turns := rest, reply := some (.data s.regs[i]) } := by
  rw [step_read h (regOffset_aligned i), windowReg_regOffset, readWord_written hw, drawsTaken_written hw, Nat.add_zero]

/-- Settles O46: a register of `ws` is written and holds its word, which the read answers. -/
theorem resultIsReadAfterCompletion : Obligations.ResultIsReadAfterCompletion := by
  intro s t ws p rest hsucc hp h
  refine ⟨_, step_read_written h (hsucc.nowWritten p hp), ?_, rfl⟩
  rw [hsucc.result p hp]

/-- Settles O48: the write by BUSY, and the read by the register's written mark. -/
theorem hostRegisterAccess : Obligations.HostRegisterAccess := by
  refine ⟨fun s i v rest h hb => ?_, fun s i v rest h hb => ?_, fun s i rest h hw => step_read_written h hw,
    fun s i rest h hw => ?_⟩
  · rw [step_write h (regOffset_aligned i), windowReg_regOffset, State.writeWord, hostWriteReg_idle i v (by exact hb)]
    rfl
  · rw [step_write h (regOffset_aligned i), windowReg_regOffset, State.writeWord, hostWriteReg_busy i v (by exact hb)]
    rfl
  · rw [step_read h (regOffset_aligned i), windowReg_regOffset, readWord_unwritten hw, drawsTaken_unwritten hw]

/-! ### ERRCMD, ID and the reserved offsets (20_memory.md R51, R56) -/

theorem windowReg_reserved {off : BitVec 8} (h : 0x94 ≤ off.toNat) : windowReg off = .reserved := by
  rw [windowReg, dif_neg (by omega), if_neg (by omega), if_neg (by omega), if_neg (by omega), if_neg (by omega),
    if_neg (by omega)]

/-- The three kinds of window word that ignore a host write stand from ERRCMD's offset on. -/
theorem windowReg_readOnly {off : BitVec 8} (h : 0x8C ≤ off.toNat) :
    windowReg off = .errcmd ∨ windowReg off = .id ∨ windowReg off = .reserved := by
  obtain h | h | h : off.toNat / 4 = 35 ∨ off.toNat / 4 = 36 ∨ 37 ≤ off.toNat / 4 := by omega
  · exact .inl (by simp [windowReg, h])
  · exact .inr (.inl (by simp [windowReg, h]))
  · exact .inr (.inr (windowReg_reserved (by omega)))

theorem writeWord_readOnly {off : BitVec 8} (v : Word) (s : State) (h : 0x8C ≤ off.toNat) :
    s.writeWord (windowReg off) v = s := by
  obtain e | e | e := windowReg_readOnly h <;> rw [e] <;> rfl

/-- Settles O51: the three reads by the window map, and the write by `writeWord_readOnly`. -/
theorem readOnlyAndReservedOffsets : Obligations.ReadOnlyAndReservedOffsets := by
  refine ⟨fun s rest h => ?_, fun s rest h => ?_, fun s off rest h ha ho => ?_, fun s off v rest h ha ho => ?_⟩
  · rw [step_read h (by decide), windowReg_errcmd]
    rfl
  · rw [step_read h (by decide), windowReg_id]
    rfl
  · rw [step_read h ha, windowReg_reserved ho]
    rfl
  · rw [step_write h ha, writeWord_readOnly v _ ho]

/-! ### The port's answer (20_memory.md R52, R53) -/

theorem supported_iff (t : Transaction) : t.supported = true ↔
    t.size = 4 ∧ t.off.toNat % 4 = 0 ∧ ∀ lanes v, t.access = .write lanes v → lanes = 0b1111#4 := by
  cases ha : t.access with
  | read => simp [Transaction.supported, ha]
  | write lanes v => simp [Transaction.supported, ha, and_assoc]

/-- A supported access is answered with Ok or with a word. -/
theorem transact_reply_of_supported {t : Transaction} (s : State) (h : t.supported = true) :
    (s.transact t).reply = some .ok ∨ ∃ v, (s.transact t).reply = some (.data v) := by
  cases ha : t.access with
  | read => exact .inr ⟨_, by rw [transact_read s h ha]⟩
  | write lanes v => exact .inl (by rw [transact_write s h ha])

/-- Settles O52: the two forms of access are those that `supported_iff` tells apart. -/
theorem unsupportedAccessIsABusError : Obligations.UnsupportedAccessIsABusError := by
  refine ⟨fun s t rest h hform => ?_, fun s t rest h hsize halign hlanes => ?_⟩
  · have hsup : t.supported = false := by
      refine Bool.eq_false_of_not_eq_true fun hsup => ?_
      obtain ⟨hsize, halign, hlanes⟩ := (supported_iff t).mp hsup
      obtain hne | hne | ⟨lanes, v, ha, hne⟩ := hform
      · exact hne hsize
      · exact hne halign
      · exact hne (hlanes lanes v ha)
    rw [step_host h, transact_unsupported _ hsup]
  · have hsup := (supported_iff t).mpr ⟨hsize, halign, hlanes⟩
    exact ⟨_, step_host h, transact_reply_of_supported _ hsup⟩

/-- Settles O53, by `transact_cases`: an access that is no write changes at most the answer and the draws. -/
theorem readsHaveNoSideEffect : Obligations.ReadsHaveNoSideEffect := by
  intro s t rest h ha
  refine ⟨_, step_host h, ?_⟩
  obtain ⟨reply, draws, e⟩ | ⟨lanes, v, -, hwrite, -⟩ := transact_cases t { s with turns := rest }
  · rw [e]
  · cases ha.symm.trans hwrite

end Sys2Proof.Machine
end

section
/-! PROOF. The decoder against the encoder and the opcode table, and the three decode errors as completions
(30_encoding.md R80 to R91). -/

namespace Sys2Proof

/-! ### The decoder's three checks in turn (30_encoding.md R84) -/

theorem decode_illegalOpcode {w : Word} (ho : Op.ofCode? (opcField w) = none) : decode w = .error .illegalOpcode := by
  simp [decode, ho]

theorem decode_reservedBits {w : Word} {o : Op} (ho : Op.ofCode? (opcField w) = some o)
    (hr : reservedNonzero o w = true) : decode w = .error .reservedBits := by
  simp [decode, ho, hr]

theorem decode_groupRange {w : Word} {o : Op} (ho : Op.ofCode? (opcField w) = some o)
    (hr : reservedNonzero o w = false) (hw : (o.build (dField w) (aField w) (bField w)).wellFormed = false) :
    decode w = .error .groupRange := by
  simp [decode, ho, hr, hw]

theorem decode_command {w : Word} {o : Op} (ho : Op.ofCode? (opcField w) = some o)
    (hr : reservedNonzero o w = false) (hw : (o.build (dField w) (aField w) (bField w)).wellFormed = true) :
    decode w = .ok (o.build (dField w) (aField w) (bField w)) := by
  simp [decode, ho, hr, hw]

/-- A word that decodes has passed all three checks. -/
theorem decode_ok_cases {w : Word} {i : Instr} (h : decode w = .ok i) :
    Op.ofCode? (opcField w) = some i.op ∧ reservedNonzero i.op w = false ∧
      i.op.build (dField w) (aField w) (bField w) = i := by
  obtain ⟨-, e⟩ | ⟨o, -, -, e⟩ | ⟨o, -, -, -, e⟩ | ⟨o, ho, hr, -, e⟩ := decode_cases w <;> cases h.symm.trans e
  rw [Op.op_build]
  exact ⟨ho, hr, rfl⟩

theorem reservedNonzero_eq_false_iff (o : Op) (w : Word) : reservedNonzero o w = false ↔
    zField w = 0#9 ∧ (o.kindA = .unused → aField w = 0) ∧ (o.kindB = .unused → bField w = 0) := by
  simp [reservedNonzero, Kind.unusedNonzero, and_assoc]

/-- A field that the opcode does not use is in range whatever it holds, so the word's own fields decide. -/
theorem Op.wellFormed_build_iff (o : Op) (d a b : RegIdx) : (o.build d a b).wellFormed = true ↔
    o.kindD.inRange d = true ∧ o.kindA.inRange a = true ∧ o.kindB.inRange b = true := by
  rw [Instr.wellFormed_iff]
  cases o <;> rfl

/-! ### What each check finds (30_encoding.md R85 to R87) -/

theorem Op.ofCode?_eq_none_iff (o : BitVec 8) : Op.ofCode? o = none ↔
    (o = 0x00#8 ∨ (0x08#8 ≤ o ∧ o ≤ 0x0F#8) ∨ (0x14#8 ≤ o ∧ o ≤ 0x1F#8) ∨ 0x23#8 ≤ o) := by
  revert o
  decide

/-- Of the opcodes below 0x23 all but the fourteen are illegal, and from 0x23 on all 221 are (30_encoding.md R85). -/
theorem illegal_opcode_count :
    ((List.range 256).filter (fun n => (Op.ofCode? (BitVec.ofNat 8 n)).isNone)).length = 242 := by
  have tail : ∀ n ∈ List.range' 35 221, (Op.ofCode? (BitVec.ofNat 8 n)).isNone = true := by
    intro n hn
    rw [List.mem_range'_1] at hn
    refine Option.isNone_iff_eq_none.mpr ((Op.ofCode?_eq_none_iff _).mpr (.inr (.inr (.inr ?_))))
    rw [BitVec.le_def, BitVec.toNat_ofNat, BitVec.toNat_ofNat]
    omega
  have range_split : List.range 256 = List.range 35 ++ List.range' 35 221 := by
    rw [List.range_eq_range', List.range_eq_range', List.range'_append_1]
  rw [range_split, List.filter_append, List.filter_eq_self.mpr tail, List.length_append, List.length_range']
  decide

/-- A nonzero bit of 8:0, or a nonzero field that the opcode does not use, is R84's second check (30_encoding.md R86). -/
theorem reservedNonzero_of_field {o : Op} {w : Word} (h : zField w ≠ 0#9 ∨
    ((o = .neg ∨ o = .fromint ∨ o = .qid) ∧ bField w ≠ 0) ∨ (o = .qid ∧ aField w ≠ 0)) :
    reservedNonzero o w = true := by
  refine Bool.eq_true_of_not_eq_false fun hr => ?_
  obtain ⟨hz, ha, hb⟩ := (reservedNonzero_eq_false_iff o w).mp hr
  obtain h | ⟨rfl | rfl | rfl, h⟩ | ⟨rfl, h⟩ := h
  · exact h hz
  · exact h (hb rfl)
  · exact h (hb rfl)
  · exact h (hb rfl)
  · exact h (ha rfl)

/-- A field of a group kind that is above its limit makes the built command ill-formed (30_encoding.md R87). -/
theorem build_illFormed_of_field {o : Op} {d a b : RegIdx}
    (h : (o.kindD = .vector ∧ 29 < d.val) ∨ (o.kindD = .quaternion ∧ 28 < d.val) ∨
      (o.kindA = .vector ∧ 29 < a.val) ∨ (o.kindA = .quaternion ∧ 28 < a.val) ∨
      (o.kindB = .vector ∧ 29 < b.val) ∨ (o.kindB = .quaternion ∧ 28 < b.val)) :
    (o.build d a b).wellFormed = false := by
  refine Bool.eq_false_of_not_eq_true fun hw => ?_
  obtain ⟨hd, ha, hb⟩ := (Op.wellFormed_build_iff o d a b).mp hw
  have vector {k : Kind} {f : RegIdx} (hf : k.inRange f = true) (hk : k = .vector) : f.val ≤ 29 :=
    (Kind.inRange_vector f).mp (hk ▸ hf)
  have quaternion {k : Kind} {f : RegIdx} (hf : k.inRange f = true) (hk : k = .quaternion) : f.val ≤ 28 :=
    (Kind.inRange_quaternion f).mp (hk ▸ hf)
  obtain ⟨hk, h⟩ | ⟨hk, h⟩ | ⟨hk, h⟩ | ⟨hk, h⟩ | ⟨hk, h⟩ | ⟨hk, h⟩ := h
  · exact h.not_ge (vector hd hk)
  · exact h.not_ge (quaternion hd hk)
  · exact h.not_ge (vector ha hk)
  · exact h.not_ge (quaternion ha hk)
  · exact h.not_ge (vector hb hk)
  · exact h.not_ge (quaternion hb hk)

/-! ### Decoding and encoding are inverse (30_encoding.md R88) -/

theorem decode_encode {i : Instr} (hw : i.wellFormed = true) : decode (encode i) = .ok i := by
  have hbuild : i.op.build (dField (encode i)) (aField (encode i)) (bField (encode i)) = i := by simp [encode]
  have hop : Op.ofCode? (opcField (encode i)) = some i.op := by simp [encode]
  rw [decode_command hop (reservedNonzero_encode i) (by rw [hbuild]; exact hw), hbuild]

/-- A word that passes the first two checks is the encoding of the command built from its fields. -/
theorem encode_build_fields {w : Word} {o : Op} (ho : Op.ofCode? (opcField w) = some o)
    (hr : reservedNonzero o w = false) : encode (o.build (dField w) (aField w) (bField w)) = w := by
  obtain ⟨hz, ha, hb⟩ := (reservedNonzero_eq_false_iff o w).mp hr
  have hA : (if o.kindA = .unused then 0 else aField w) = aField w := ite_eq_right_iff.mpr fun h => (ha h).symm
  have hB : (if o.kindB = .unused then 0 else bField w) = bField w := ite_eq_right_iff.mpr fun h => (hb h).symm
  rw [encode, Op.op_build, Op.fieldD_build, Op.fieldA_build, Op.fieldB_build, hA, hB, Op.code_ofCode? ho,
    commandWord_fields w hz]

theorem encode_decode {w : Word} {i : Instr} (h : decode w = .ok i) : encode i = w := by
  obtain ⟨ho, hr, hbuild⟩ := decode_ok_cases h
  rw [← hbuild]
  exact encode_build_fields ho hr

/-- The decoder raises only the errors 1 to 3 (60_exceptions.md R171). -/
theorem decode_error_code {w : Word} {e : CmdError} (h : decode w = .error e) :
    e.code = 1#4 ∨ e.code = 2#4 ∨ e.code = 3#4 := by
  obtain ⟨-, h'⟩ | ⟨o, -, -, h'⟩ | ⟨o, -, -, -, h'⟩ | ⟨o, -, -, -, h'⟩ := decode_cases w <;> cases h.symm.trans h'
  · exact .inl rfl
  · exact .inr (.inl rfl)
  · exact .inr (.inr rfl)

/-- Settles O11, by `decode_encode`. -/
theorem decodeOfEncodeIsTheCommand : Obligations.DecodeOfEncodeIsTheCommand := fun _ hw => decode_encode hw

/-- Settles O12, by what the word decodes to: any command that encodes to the word is what it decodes to. -/
theorem everyWordIsOneCommandOrADecodeError : Obligations.EveryWordIsOneCommandOrADecodeError := by
  intro w
  have decoded (j : Instr) (hj : j.wellFormed = true) (he : encode j = w) : decode w = .ok j := he ▸ decode_encode hj
  cases hd : decode w with
  | ok i =>
    refine .inl ⟨i, decode_wellFormed hd, encode_decode hd, rfl, fun j hj he => ?_⟩
    cases hd.symm.trans (decoded j hj he)
    rfl
  | error e =>
    refine .inr ⟨e, rfl, decode_error_code hd, fun j hj he => ?_⟩
    cases hd.symm.trans (decoded j hj he)

/-! ### The opcode table's masks and matches (30_encoding.md R83) -/

open Laws.EncodeMatchesTable (mask matchWord)

theorem encode_and_mask (i : Instr) : encode i &&& mask i.op = matchWord i.op := by
  cases i with
  | add d a b => exact Laws.EncodeMatchesTable.add d a b
  | sub d a b => exact Laws.EncodeMatchesTable.sub d a b
  | neg d a => exact Laws.EncodeMatchesTable.neg d a
  | mul d a b => exact Laws.EncodeMatchesTable.mul d a b
  | div d a b => exact Laws.EncodeMatchesTable.div d a b
  | fromint d a => exact Laws.EncodeMatchesTable.fromint d a
  | toints d a b => exact Laws.EncodeMatchesTable.toints d a b
  | vadd d a b => exact Laws.EncodeMatchesTable.vadd d a b
  | vscale d a b => exact Laws.EncodeMatchesTable.vscale d a b
  | vdot d a b => exact Laws.EncodeMatchesTable.vdot d a b
  | vcross d a b => exact Laws.EncodeMatchesTable.vcross d a b
  | qid d => exact Laws.EncodeMatchesTable.qid d
  | qmul d a b => exact Laws.EncodeMatchesTable.qmul d a b
  | qrot d a b => exact Laws.EncodeMatchesTable.qrot d a b

/-- A field that the mask keeps whole is the match's field. -/
theorem extractLsb'_of_masked {w m v : Word} {k n : Nat} (h : w &&& m = v)
    (hm : m.extractLsb' k n = BitVec.allOnes n) : w.extractLsb' k n = v.extractLsb' k n := by
  rw [← h, BitVec.extractLsb'_and, hm, BitVec.and_allOnes]

theorem opcField_of_masked {w : Word} {o : Op} (h : w &&& mask o = matchWord o) : opcField w = o.code := by
  rw [opcField, extractLsb'_of_masked h (by cases o <;> decide)]
  cases o <;> decide

theorem zField_of_masked {w : Word} {o : Op} (h : w &&& mask o = matchWord o) : zField w = 0#9 := by
  rw [zField, extractLsb'_of_masked h (by cases o <;> decide)]
  cases o <;> decide

theorem aField_of_masked {w : Word} {o : Op} (h : w &&& mask o = matchWord o) (hk : o.kindA = .unused) :
    aField w = 0 := by
  rw [aField, extractLsb'_of_masked h (by revert hk; cases o <;> decide)]
  cases o <;> decide

theorem bField_of_masked {w : Word} {o : Op} (h : w &&& mask o = matchWord o) (hk : o.kindB = .unused) :
    bField w = 0 := by
  rw [bField, extractLsb'_of_masked h (by revert hk; cases o <;> decide)]
  cases o <;> decide

/-- The mask and match of a row say R84's first two checks. -/
theorem masked_iff (w : Word) (o : Op) :
    w &&& mask o = matchWord o ↔ Op.ofCode? (opcField w) = some o ∧ reservedNonzero o w = false := by
  constructor
  · intro h
    rw [opcField_of_masked h, Op.ofCode?_code, reservedNonzero_eq_false_iff]
    exact ⟨rfl, zField_of_masked h, aField_of_masked h, bField_of_masked h⟩
  · rintro ⟨ho, hr⟩
    simpa [encode_build_fields ho hr] using encode_and_mask (o.build (dField w) (aField w) (bField w))

/-- A row of the opcode table: mask and match, and the range of each field's kind (30_encoding.md R83, R84, R87). -/
theorem decode_build_iff (w : Word) (o : Op) :
    (w &&& mask o = matchWord o ∧ o.kindD.inRange (dField w) = true ∧ o.kindA.inRange (aField w) = true ∧
      o.kindB.inRange (bField w) = true) ↔ decode w = .ok (o.build (dField w) (aField w) (bField w)) := by
  rw [masked_iff, ← Op.wellFormed_build_iff]
  constructor
  · rintro ⟨⟨ho, hr⟩, hw⟩
    exact decode_command ho hr hw
  · intro h
    obtain ⟨ho, hr, -⟩ := decode_ok_cases h
    rw [Op.op_build] at ho hr
    exact ⟨⟨ho, hr⟩, decode_wellFormed h⟩

/-- Settles O13: each row is `decode_build_iff` at its opcode, with the ranges of its kinds written out. -/
theorem matchAndMaskRowsDecode : Obligations.MatchAndMaskRowsDecode := by
  intro w
  have row := decode_build_iff w
  have rows := And.intro (row .add) <| And.intro (row .sub) <| And.intro (row .neg) <| And.intro (row .mul) <|
    And.intro (row .div) <| And.intro (row .fromint) <| And.intro (row .toints) <| And.intro (row .vadd) <|
    And.intro (row .vscale) <| And.intro (row .vdot) <| And.intro (row .vcross) <| And.intro (row .qid) <|
    And.intro (row .qmul) (row .qrot)
  simpa [mask, matchWord, Op.build, Op.kindD, Op.kindA, Op.kindB] using rows

/-! ### The word as a number (30_encoding.md R91) -/

theorem toNat_append_eq_add {m n : Nat} (x : BitVec m) (y : BitVec n) :
    (x ++ y).toNat = x.toNat * 2 ^ n + y.toNat := by
  rw [BitVec.toNat_append, ← Nat.shiftLeft_add_eq_or_of_lt y.isLt, Nat.shiftLeft_eq]

theorem commandWord_toNat (o : BitVec 8) (d a b : RegIdx) : (commandWord o d a b).toNat =
    o.toNat * 2 ^ 24 + d.val * 2 ^ 19 + a.val * 2 ^ 14 + b.val * 2 ^ 9 := by
  simp only [commandWord, toNat_append_eq_add, BitVec.toNat_ofFin, BitVec.toNat_ofNat]
  ring

/-- Settles O14: the eight words by evaluation, the formula by `commandWord_toNat`. -/
theorem workedEncodings : Obligations.WorkedEncodings := by
  have formula (i : Instr) := commandWord_toNat i.op.code i.fieldD i.fieldA i.fieldB
  refine ⟨?_, ?_, ?_, ?_, ?_, ?_, ?_, ?_, ?_, ?_, ?_, ?_, ?_, ?_, ?_, ?_, formula⟩ <;> decide

end Sys2Proof

namespace Sys2Proof.Machine

/-! ### Decode errors complete the command (30_encoding.md R85 to R87) -/

/-- On the engine's turn a word that does not decode completes with its decode error. -/
theorem step_decode_error {s : State} {c : Command} {e : CmdError} (hc : s.inflight = some c) (hn : s.EngineNext)
    (hd : decode c.word = .error e) : ∃ t, step s = .next t ∧ Failed s.popTurn t e c.word :=
  ⟨_, (step_engine_run hn hc).trans (runCommand_error _ hd), complete_error_failed _ _ _⟩

/-- Settles O15: the map by its 256 numbers, the count by `illegal_opcode_count`, the completion by `step_decode_error`. -/
theorem illegalOpcodeCompletesWithCodeOne : Obligations.IllegalOpcodeCompletesWithCodeOne :=
  ⟨Op.ofCode?_eq_none_iff, illegal_opcode_count, by decide, rfl,
    fun _ _ hc hn ho => step_decode_error hc hn (decode_illegalOpcode ho)⟩

/-- Settles O16, by `reservedNonzero_of_field`. -/
theorem reservedBitsCompleteWithCodeTwo : Obligations.ReservedBitsCompleteWithCodeTwo :=
  ⟨rfl, fun _ _ _ hc hn ho h => step_decode_error hc hn (decode_reservedBits ho (reservedNonzero_of_field h))⟩

/-- Executing a command with a base out of range fails with GROUP_RANGE (30_encoding.md R84, log 8). -/
theorem exec_out_of_range {i : Instr} (s : State) (hw : i.wellFormed = false) :
    ∃ t, exec i s = .next t ∧ Failed s t .groupRange (s.wordOf i) := by
  obtain ⟨sem, h⟩ := exec_perform i s
  rw [h]
  exact perform_out_of_range hw

/-- Settles O17: the word by `build_illFormed_of_field`, the command by `exec_out_of_range`. -/
theorem groupRangeCompletesWithCodeThree : Obligations.GroupRangeCompletesWithCodeThree :=
  ⟨rfl, fun _ _ _ hc hn ho hr h => step_decode_error hc hn (decode_groupRange ho hr (build_illFormed_of_field h)),
    fun _ s hw => exec_out_of_range s hw⟩

end Sys2Proof.Machine
end

section
/-! PROOF. The scalar functions as exact results narrowed modulo 2^32: their values, their signs and their errors
(41_scalar.md R100, R106 to R111). -/

namespace Sys2Proof.Machine

/-! ### Narrowing (00_scope.md R9) -/

theorem toInt_wrap32_of_range {v : Int} (hlo : -2 ^ 31 ≤ v) (hhi : v < 2 ^ 31) : (wrap32 v).toInt = v :=
  BitVec.toInt_ofInt_eq_self (by decide) hlo hhi

theorem toInt_wrap32_congr (v : Int) : ∃ k, (wrap32 v).toInt = v + k * 2 ^ 32 := by
  refine ⟨-v.bdiv (2 ^ 32), ?_⟩
  rw [show (wrap32 v).toInt = v.bmod (2 ^ 32) from sint32_wrap32 v, Int.bmod_eq_self_sub_mul_bdiv]
  push_cast
  ring

/-- Of the values up to the magnitude 2^31 only 2^31 itself does not fit a word. -/
theorem toInt_wrap32_ne_iff {v : Int} (h : v.natAbs ≤ 2 ^ 31) : (wrap32 v).toInt ≠ v ↔ v = 2 ^ 31 := by
  constructor
  · intro hne
    by_contra hv
    exact hne (toInt_wrap32_of_range (by omega) (by omega))
  · rintro rfl
    decide

/-- Negation is exact on every word but 0x80000000 (41_scalar.md R103). -/
theorem sint32_fneg {a : Word} (h : a ≠ 0x80000000#32) : sint32 (fneg a) = -sint32 a := by
  rw [fneg_eq]
  exact BitVec.toInt_neg_of_ne_intMin h

/-! ### Exact values and ranges (41_scalar.md R100) -/

/-- The exact product is least where the one operand is -2^31 and the other 2^31 - 1. -/
theorem product_range (a b : Word) :
    -2 ^ 62 + 2 ^ 31 ≤ sint32 a * sint32 b ∧ sint32 a * sint32 b ≤ 2 ^ 62 := by
  obtain ⟨ha, ha'⟩ := sint32_range a
  obtain ⟨hb, hb'⟩ := sint32_range b
  refine ⟨?_, BitVec.toInt_mul_toInt_le⟩
  obtain h | h := le_total 0 (sint32 a)
  · nlinarith
  · nlinarith

theorem shifted_dividend_range (a : Word) :
    -2 ^ 55 ≤ sint32 a * Config.unit ∧ sint32 a * Config.unit ≤ 2 ^ 55 - 2 ^ 24 := by
  have h := sint32_range a
  rw [Config.unit]
  omega

theorem tdiv_nonneg_of_mul_nonneg {n d : Int} (h : 0 ≤ n * d) : 0 ≤ Int.tdiv n d := by
  obtain ⟨hn, hd⟩ | ⟨hn, hd⟩ := mul_nonneg_iff.mp h
  · exact Int.tdiv_nonneg hn hd
  · exact Int.tdiv_nonneg_of_nonpos_of_nonpos hn hd

theorem tdiv_nonpos_of_mul_nonpos {n d : Int} (h : n * d ≤ 0) : Int.tdiv n d ≤ 0 := by
  have hneg : 0 ≤ Int.tdiv (-n) d := tdiv_nonneg_of_mul_nonneg (by linarith)
  rw [Int.neg_tdiv] at hneg
  omega

/-- Settles O34: each function narrows its exact result by `wrap32`, and the intermediates by their ranges. -/
theorem scalarFunctionsAreExactThenWrapped : Obligations.ScalarFunctionsAreExactThenWrapped := by
  intro a b
  refine ⟨toInt_wrap32_congr _, toInt_wrap32_congr _, toInt_wrap32_congr _, ?_, fun _ => ?_, product_range a b,
    shifted_dividend_range a⟩
  · obtain ⟨hle, hlt⟩ := asr_floor (a.toInt * b.toInt) 24
    obtain ⟨k, hk⟩ := toInt_wrap32_congr (asr (a.toInt * b.toInt) 24)
    exact ⟨_, k, hle, hlt, hk⟩
  · have hmul : a.toInt * 2 ^ 24 * b.toInt = a.toInt * b.toInt * 2 ^ 24 := Int.mul_right_comm ..
    obtain ⟨k, hk⟩ := toInt_wrap32_congr (Int.tdiv (a.toInt * 2 ^ 24) b.toInt)
    exact ⟨_, k, Int.natAbs_tdiv .., fun h => tdiv_nonneg_of_mul_nonneg (by omega),
      fun h => tdiv_nonpos_of_mul_nonpos (by omega), hk⟩

/-! ### Multiplication at every sign combination (41_scalar.md R109) -/

theorem sign_two_pow (n : Nat) : Int.sign (2 ^ n) = 1 :=
  Int.sign_eq_one_of_pos (by positivity)

/-- Negating before and after the floored division rounds up instead of down. -/
theorem neg_asr_neg (p : Int) (n : Nat) : -asr (-p) n = if p % 2 ^ n = 0 then asr p n else asr p n + 1 := by
  simp only [asr, Int.neg_ediv, Int.dvd_iff_emod_eq_zero, sign_two_pow]
  split <;> ring

theorem fneg_fmul_fneg {a : Word} (b : Word) (h : a ≠ 0x80000000#32) : fneg (fmul (fneg a) b) =
    wrap32 (if sint32 a * sint32 b % 2 ^ 24 = 0 then asr (sint32 a * sint32 b) 24
      else asr (sint32 a * sint32 b) 24 + 1) := by
  rw [← neg_asr_neg, wrap32_neg, fneg_eq, fmul, sint32_fneg h, Int.neg_mul, Config.fractionBits]

/-- Multiplication commutes with the negation of an operand exactly when no bit is discarded. -/
theorem fmul_eq_fneg_fmul_fneg_iff {a : Word} (b : Word) (h : a ≠ 0x80000000#32) :
    fmul a b = fneg (fmul (fneg a) b) ↔ sint32 a * sint32 b % 2 ^ 24 = 0 := by
  rw [fneg_fmul_fneg b h, fmul, Config.fractionBits, wrap32_eq_iff]
  split
  · next hr => exact iff_of_true rfl hr
  · next hr =>
    refine iff_of_false ?_ hr
    omega

theorem asr_eq_tdiv_of_nonneg {p : Int} (n : Nat) (h : 0 ≤ p) : asr p n = Int.tdiv p (2 ^ n) :=
  (Int.tdiv_eq_ediv_of_nonneg h).symm

theorem asr_eq_tdiv_sub_one {p : Int} (n : Nat) (h : p < 0) (hr : p % 2 ^ n ≠ 0) :
    asr p n = Int.tdiv p (2 ^ n) - 1 := by
  rw [Int.tdiv_eq_ediv, if_neg (by rw [Int.dvd_iff_emod_eq_zero]; omega), sign_two_pow, asr]
  ring

theorem floor_div_eq_asr (p : Int) (n : Nat) : ⌊(p : ℚ) / 2 ^ n⌋ = asr p n := by
  have h := Rat.floor_intCast_div_natCast p (2 ^ n)
  push_cast at h
  exact h

/-- Settles O35: the floor by `floor_div_eq_asr`, truncation by the two cases of the sign, the negation law by
`fmul_eq_fneg_fmul_fneg_iff`. -/
theorem mulFloorsAtEverySign : Obligations.MulFloorsAtEverySign := by
  refine ⟨fun a b => ?_, fun a b h => ?_, fun a b h hr => ?_, fun a b h => ?_, by decide, by decide, fmul_zero_right⟩
  · have hfloor := floor_div_eq_asr (a.toInt * b.toInt) 24
    push_cast at hfloor
    rw [hfloor]
    rfl
  · exact congrArg wrap32 (asr_eq_tdiv_of_nonneg 24 h)
  · exact congrArg wrap32 (asr_eq_tdiv_sub_one 24 h hr)
  · exact (fmul_eq_fneg_fmul_fneg_iff b h).not

/-! ### Errors where the exact result is in range (41_scalar.md R111) -/

theorem toInt_fmul_of_range {a b : Word} (hlo : -2 ^ 55 ≤ a.toInt * b.toInt) (hhi : a.toInt * b.toInt < 2 ^ 55) :
    (fmul a b).toInt = asr (a.toInt * b.toInt) 24 := by
  obtain ⟨hle, hlt⟩ := asr_floor (a.toInt * b.toInt) 24
  exact toInt_wrap32_of_range (v := asr (a.toInt * b.toInt) 24) (by omega) (by omega)

/-- Truncation moves toward zero by less than one divisor. -/
theorem tdiv_error {n d : Int} (hd : d ≠ 0) :
    (Int.tdiv n d * d).natAbs ≤ n.natAbs ∧ (n - Int.tdiv n d * d).natAbs < d.natAbs := by
  have hrem : n - Int.tdiv n d * d = Int.tmod n d := by
    have := Int.mul_tdiv_add_tmod n d
    linarith
  constructor
  · rw [Int.natAbs_mul, Int.natAbs_tdiv]
    exact Nat.div_mul_le_self ..
  · rw [hrem, Int.natAbs_tmod]
    exact Nat.mod_lt _ (Int.natAbs_pos.mpr hd)

/-- Settles O37: in range `wrap32` changes nothing, and the errors are those of the floor and of the truncation. -/
theorem roundingErrorIsBelowOneUlp : Obligations.RoundingErrorIsBelowOneUlp := by
  intro a b
  refine ⟨toInt_wrap32_of_range, toInt_wrap32_of_range, fun h => ?_, fun hlo hhi => ?_, fun hb hlo hhi => ?_⟩
  · have ha : a.toInt < 2 ^ 31 := (sint32_range a).2
    exact toInt_wrap32_of_range (show -2 ^ 31 ≤ -a.toInt by omega) (show -a.toInt < 2 ^ 31 by omega)
  · obtain ⟨hle, hlt⟩ := asr_floor (a.toInt * b.toInt) 24
    rw [toInt_fmul_of_range hlo hhi]
    omega
  · rw [show (fdiv a b).toInt = Int.tdiv (a.toInt * 2 ^ 24) b.toInt from toInt_wrap32_of_range hlo hhi]
    exact tdiv_error hb

/-! ### Division, FROMINT and TOINTS (41_scalar.md R105 to R107, R110) -/

theorem fdiv_fneg_left {a : Word} (b : Word) (h : a ≠ 0x80000000#32) : fdiv (fneg a) b = fneg (fdiv a b) := by
  rw [fdiv, fdiv, sint32_fneg h, Int.neg_mul, tdiv, tdiv, Int.neg_tdiv, wrap32_neg, fneg_eq]

theorem fdiv_fneg_right (a : Word) {b : Word} (h : b ≠ 0x80000000#32) : fdiv a (fneg b) = fneg (fdiv a b) := by
  rw [fdiv, fdiv, sint32_fneg h, tdiv, tdiv, Int.tdiv_neg, wrap32_neg, fneg_eq]

theorem fdiv_zero_left (b : Word) : fdiv 0#32 b = 0#32 := by
  simp [fdiv, tdiv, sint32, wrap32]

/-- FROMINT keeps bits 7:0 (41_scalar.md R106): modulo 2^32 it is a shift by 24. -/
theorem fromInt_eq_append (x : Word) : fromInt x = x.extractLsb' 0 8 ++ 0#24 := by
  calc fromInt x = x * BitVec.twoPow 32 24 := by rw [fromInt, wrap32_mul, wrap32_sint32]; rfl
    _ = x <<< 24 := BitVec.mul_twoPow_eq_shiftLeft x 24
    _ = x.extractLsb' 0 8 ++ 0#24 := BitVec.shiftLeft_eq_concat_of_lt (by decide)

/-- Dividing by one ulp is FROMINT (41_scalar.md R105). -/
theorem fdiv_ulp (x : Word) : fdiv x 0x00000001#32 = fromInt x := by
  have hone : sint32 0x00000001#32 = 1 := by decide
  rw [fdiv, hone, tdiv, Int.tdiv_one, fromInt]

theorem scaleDivisor_mul_eq_iff (x : Word) : scaleDivisor x * x.toInt = 2 ^ 24 ↔ x.toInt ∣ 2 ^ 24 :=
  ⟨fun h => Dvd.intro_left _ h, Int.tdiv_mul_cancel⟩

theorem scaleDivisor_fneg {x : Word} (h : x ≠ 0x80000000#32) : scaleDivisor (fneg x) = -scaleDivisor x := by
  rw [scaleDivisor, scaleDivisor, sint32_fneg h, tdiv, tdiv, Int.tdiv_neg]

theorem toIntScaled_fneg (n : Word) {x : Word} (h : x ≠ 0x80000000#32) :
    toIntScaled n (fneg x) = fneg (toIntScaled n x) := by
  rw [toIntScaled, toIntScaled, scaleDivisor_fneg h, tdiv, tdiv, Int.tdiv_neg, wrap32_neg, fneg_eq]

theorem toIntScaled_one (n : Word) : toIntScaled n 1#32 = wrap32 (Int.tdiv n.toInt (2 ^ 24)) := by
  have hdsc : scaleDivisor 1#32 = 2 ^ 24 := by decide
  rw [toIntScaled, hdsc, tdiv, sint32]

theorem toIntScaled_unit (n : Word) : toIntScaled n 0x01000000#32 = n := by
  have hdsc : scaleDivisor 0x01000000#32 = 1 := by decide
  rw [toIntScaled, hdsc, tdiv, Int.tdiv_one, wrap32_sint32]

/-- Negative scales above half of 2^24 in magnitude truncate to the divisor -1 (41_scalar.md R107). -/
theorem scaleDivisor_eq_neg_one_iff (x : Word) :
    scaleDivisor x = -1 ↔ -2 ^ 24 ≤ x.toInt ∧ x.toInt ≤ -(2 ^ 23 + 1) := by
  obtain hx | hx := le_or_gt 0 x.toInt
  · have hdsc : 0 ≤ scaleDivisor x := Int.tdiv_nonneg (by decide) hx
    omega
  · have hdsc : scaleDivisor x = -(2 ^ 24 / -x.toInt) := by
      rw [← Int.tdiv_eq_ediv_of_nonneg (by decide), Int.tdiv_neg, Int.neg_neg]
      rfl
    rw [hdsc, neg_inj, Int.ediv_eq_iff_of_pos (by omega)]
    omega

/-- A quotient of words reaches 2^31 only as -2^31 by -1. -/
theorem tdiv_eq_two_pow_31_iff {n d : Int} (hlo : -2 ^ 31 ≤ n) (hhi : n < 2 ^ 31) :
    Int.tdiv n d = 2 ^ 31 ↔ n = -2 ^ 31 ∧ d = -1 := by
  constructor
  · intro h
    have hd : d ≠ 0 := by
      rintro rfl
      rw [Int.tdiv_zero] at h
      omega
    obtain ⟨hle, hlt⟩ := tdiv_error (n := n) hd
    rw [h] at hle hlt
    omega
  · rintro ⟨rfl, rfl⟩
    decide

/-- The only wrapping case of TOINTS (41_scalar.md R107). -/
theorem toIntScaled_wraps_iff (n x : Word) : (toIntScaled n x).toInt ≠ Int.tdiv n.toInt (scaleDivisor x) ↔
    n = 0x80000000#32 ∧ -2 ^ 24 ≤ x.toInt ∧ x.toInt ≤ -(2 ^ 23 + 1) := by
  obtain ⟨hlo, hhi⟩ : -2 ^ 31 ≤ n.toInt ∧ n.toInt < 2 ^ 31 := sint32_range n
  have hmag := Int.natAbs_tdiv_le_natAbs n.toInt (scaleDivisor x)
  have hmin : n.toInt = -2 ^ 31 ↔ n = 0x80000000#32 := by rw [← BitVec.toInt_inj]; rfl
  calc (toIntScaled n x).toInt ≠ Int.tdiv n.toInt (scaleDivisor x)
    _ ↔ Int.tdiv n.toInt (scaleDivisor x) = 2 ^ 31 := toInt_wrap32_ne_iff (hmag.trans (by omega))
    _ ↔ _ := by rw [tdiv_eq_two_pow_31_iff hlo hhi, hmin, scaleDivisor_eq_neg_one_iff]

end Sys2Proof.Machine
end

section
/-! PROOF. The scalar commands: their words, their writes and their two errors (41_scalar.md R101 to R107, R110). -/

namespace Sys2Proof

/-! ### The words of the scalar commands (30_encoding.md R83, R84) -/

/-- A scalar opcode has no group base, so R84's second check alone decides. -/
theorem decode_scalar {w : Word} {o : Op} (ho : opcField w = o.code) (hd : o.kindD = .scalar) (ha : o.kindA = .scalar)
    (hb : o.kindB = .scalar ∨ o.kindB = .unused) :
    decode w = if zField w = 0#9 ∧ (o.kindB = .unused → bField w = 0) then
      .ok (o.build (dField w) (aField w) (bField w)) else .error .reservedBits := by
  have hop : Op.ofCode? (opcField w) = some o := by rw [ho, Op.ofCode?_code]
  have hres := reservedNonzero_eq_false_iff o w
  have hwf : (o.build (dField w) (aField w) (bField w)).wellFormed = true := by
    rw [Op.wellFormed_build_iff, hd, ha]
    obtain h | h := hb <;> rw [h] <;> exact ⟨rfl, rfl, rfl⟩
  simp only [ha, reduceCtorEq, false_implies, true_and] at hres
  split
  · next h => exact decode_command hop (hres.mpr h) hwf
  · next h => exact decode_reservedBits hop (Bool.eq_true_of_not_eq_false (mt hres.mp h))

theorem decode_scalar_dab {w : Word} {o : Op} (ho : opcField w = o.code) (hd : o.kindD = .scalar)
    (ha : o.kindA = .scalar) (hb : o.kindB = .scalar) :
    decode w = if zField w = 0#9 then .ok (o.build (dField w) (aField w) (bField w)) else .error .reservedBits := by
  simpa [hb] using decode_scalar ho hd ha (.inl hb)

theorem decode_scalar_da {w : Word} {o : Op} (ho : opcField w = o.code) (hd : o.kindD = .scalar)
    (ha : o.kindA = .scalar) (hb : o.kindB = .unused) :
    decode w = if zField w = 0#9 ∧ bField w = 0 then .ok (o.build (dField w) (aField w) (bField w))
      else .error .reservedBits := by
  simpa [hb] using decode_scalar ho hd ha (.inr hb)

end Sys2Proof

namespace Sys2Proof.Machine

/-! ### What a command with a scalar destination writes (10_state.md R30) -/

/-- A well-formed command whose rule answers one scalar write succeeds with that write. -/
theorem exec_writes_scalar {i : Instr} {sem : RegFile → Result} {s : State} {d : RegIdx} {v : Word}
    (he : exec i s = perform i sem s) (hw : i.wellFormed = true)
    (hs : sem (s.snapshotOf i) = .ok (scalarWrites d v)) : ∃ t, exec i s = .next t ∧ Succeeded s t [(d, v)] := by
  rw [he]
  exact perform_succeeds hw hs (scalarWrites_nodup d v)

/-- Settles O20, by `exec_writes_scalar` and `decode_scalar_dab`; the two laws are those of word addition. -/
theorem addWritesTheWrappedSum : Obligations.AddWritesTheWrappedSum :=
  ⟨fun _ _ _ _ => exec_writes_scalar rfl rfl rfl, fun _ ho => decode_scalar_dab (o := .add) ho rfl rfl rfl,
    by decide, by decide, fun x y => by rw [fadd_eq, fadd_eq, BitVec.add_comm],
    fun x y z => by simp only [fadd_eq, BitVec.add_assoc], by decide, by decide⟩

/-- Settles O21, by `exec_writes_scalar` and `decode_scalar_dab`. -/
theorem subWritesTheWrappedDifference : Obligations.SubWritesTheWrappedDifference :=
  ⟨fun _ _ _ _ => exec_writes_scalar rfl rfl rfl, fun _ ho => decode_scalar_dab (o := .sub) ho rfl rfl rfl,
    by decide, by decide, fun x => by rw [fsub_eq, BitVec.sub_self], by decide⟩

/-- Settles O22, by `exec_writes_scalar`, and by `decode_scalar_da` because `b` is not used. -/
theorem negWritesTheWrappedNegation : Obligations.NegWritesTheWrappedNegation :=
  ⟨fun _ _ _ => exec_writes_scalar rfl rfl rfl, fun _ ho => decode_scalar_da (o := .neg) ho rfl rfl rfl,
    by decide, by decide, by decide, by decide, by decide⟩

/-- Settles O23, by `exec_writes_scalar` and `decode_scalar_dab`; the two laws are `fmul_one_left` and `fmul_comm`. -/
theorem mulWritesTheFlooredProduct : Obligations.MulWritesTheFlooredProduct :=
  ⟨fun _ _ _ _ => exec_writes_scalar rfl rfl rfl, fun _ ho => decode_scalar_dab (o := .mul) ho rfl rfl rfl,
    by decide, by decide, by decide, by decide, by decide, fmul_one_left, fmul_comm, by decide, by decide⟩

/-! ### DIV (41_scalar.md R105, R110) -/

theorem execDiv_succeeds {d a b : RegIdx} {s : State} (h : (s.snapshotOf (.div d a b))[b].toInt ≠ 0) :
    ∃ t, exec (.div d a b) s = .next t ∧ Succeeded s t
      [(d, fdiv (s.snapshotOf (.div d a b))[a] (s.snapshotOf (.div d a b))[b])] :=
  exec_writes_scalar rfl rfl (divResult_nonzero d _ h)

theorem execDiv_divZero {d a b : RegIdx} {s : State} (h : (s.snapshotOf (.div d a b))[b] = 0#32) :
    ∃ t, exec (.div d a b) s = .next t ∧ Failed s t .divZero (s.wordOf (.div d a b)) :=
  perform_fails rfl (divResult_zero d _ ((sint32_eq_zero _).mpr h))

/-- Settles O24: the two completions by the divisor; dividing by one ulp is FROMINT's shift. -/
theorem divWritesTheTruncatedQuotient : Obligations.DivWritesTheTruncatedQuotient :=
  ⟨fun _ _ _ _ => execDiv_succeeds, fun _ _ _ _ => execDiv_divZero, rfl,
    fun _ ho => decode_scalar_dab (o := .div) ho rfl rfl rfl,
    by decide, by decide, by decide, by decide, by decide, by decide,
    fun y => (fdiv_ulp y).trans (fromInt_eq_append y), fun y _ => fdiv_zero_left y, by decide⟩

/-- Settles O36: `tdiv` and `wrap32` commute with negation, and the zero divisor is R105's error. -/
theorem divCommutesWithNegation : Obligations.DivCommutesWithNegation :=
  ⟨fun _ b _ ha => fdiv_fneg_left b ha, fun a _ _ hb => fdiv_fneg_right a hb, fun b _ => fdiv_zero_left b,
    fun _ _ _ _ => execDiv_divZero⟩

/-! ### FROMINT (41_scalar.md R106) -/

theorem toInt_fromInt_of_range {x : Word} (hlo : -128 ≤ x.toInt) (hhi : x.toInt ≤ 127) :
    (fromInt x).toInt = x.toInt * 2 ^ 24 :=
  toInt_wrap32_of_range (v := x.toInt * 2 ^ 24) (by omega) (by omega)

/-- Settles O25: the shift by 24 keeps bits 7:0, and is exact where the product fits a word. -/
theorem fromintWritesTheShiftedInteger : Obligations.FromintWritesTheShiftedInteger :=
  ⟨fun _ _ _ => exec_writes_scalar rfl rfl rfl, fun _ ho => decode_scalar_da (o := .fromint) ho rfl rfl rfl,
    fromInt_eq_append, fun _ => toInt_fromInt_of_range, by decide, by decide, by decide, by decide⟩

/-! ### TOINTS (41_scalar.md R107) -/

theorem execToints_succeeds {d a b : RegIdx} {s : State} (h : (s.snapshotOf (.toints d a b))[b].toInt ≠ 0)
    (hdsc : scaleDivisor (s.snapshotOf (.toints d a b))[b] ≠ 0) :
    ∃ t, exec (.toints d a b) s = .next t ∧ Succeeded s t
      [(d, toIntScaled (s.snapshotOf (.toints d a b))[a] (s.snapshotOf (.toints d a b))[b])] :=
  exec_writes_scalar rfl rfl (tointsResult_ok d _ h hdsc)

/-- The scale 0 and a scale above 2^24 in magnitude are the two checks of R107. -/
theorem tointsResult_scaleZero (d : RegIdx) (n : Word) {x : Word} (h : x.toInt = 0 ∨ 2 ^ 24 < x.toInt.natAbs) :
    tointsResult d n x = .error .scaleZero := by
  by_cases hx : x.toInt = 0
  · exact tointsResult_zero d n hx
  · exact tointsResult_large d n hx ((scaleDivisor_eq_zero hx).mpr (h.resolve_left hx))

theorem execToints_scaleZero {d a b : RegIdx} {s : State} (h : (s.snapshotOf (.toints d a b))[b].toInt = 0 ∨
    2 ^ 24 < (s.snapshotOf (.toints d a b))[b].toInt.natAbs) :
    ∃ t, exec (.toints d a b) s = .next t ∧ Failed s t .scaleZero (s.wordOf (.toints d a b)) :=
  perform_fails rfl (tointsResult_scaleZero d _ h)

/-- Settles O26: the two completions by the scale, the laws of `scaleDivisor` and of `toIntScaled`, and the one wrapping
case by `toIntScaled_wraps_iff`. -/
theorem tointsWritesTheScaledInteger : Obligations.TointsWritesTheScaledInteger :=
  ⟨fun _ _ _ _ => execToints_succeeds, fun _ _ _ _ => execToints_scaleZero, rfl, fun _ => scaleDivisor_eq_zero,
    fun _ ho => decode_scalar_dab (o := .toints) ho rfl rfl rfl, fun x _ => scaleDivisor_mul_eq_iff x, by decide,
    toIntScaled_one, by decide, toIntScaled_unit, fun n _ => toIntScaled_fneg n, by decide,
    fun n x _ _ => toIntScaled_wraps_iff n x, by decide, by decide, by decide⟩

end Sys2Proof.Machine
end

section
/-! PROOF. The vector functions as arithmetic on words: their symmetries, the order of the sums, and their errors
(42_vector.md R130, R136). -/

namespace Sys2Proof.Machine

/-! ### Sums and differences of narrowed values (00_scope.md R9, 41_scalar.md R100) -/

theorem fadd_wrap32 (x y : Int) : fadd (wrap32 x) (wrap32 y) = wrap32 (x + y) := by
  rw [fadd_eq, wrap32_add]

theorem fsub_wrap32 (x y : Int) : fsub (wrap32 x) (wrap32 y) = wrap32 (x - y) := by
  rw [fsub_eq, Int.sub_eq_add_neg, wrap32_add, wrap32_neg, BitVec.sub_eq_add_neg]

/-! ### The components (42_vector.md R130) -/

theorem vadd_eq (u v : Vec3) : vadd u v = ⟨u.x + v.x, u.y + v.y, u.z + v.z⟩ := by
  simp only [vadd, fadd_eq]

theorem vdot_eq (u v : Vec3) : vdot u v = fmul u.x v.x + fmul u.y v.y + fmul u.z v.z := by
  simp only [vdot, fadd_eq]

theorem vcross_eq (u v : Vec3) : vcross u v = ⟨fmul u.y v.z - fmul u.z v.y, fmul u.z v.x - fmul u.x v.z,
    fmul u.x v.y - fmul u.y v.x⟩ := by
  simp only [vcross, fsub_eq]

/-! ### Symmetries and order (42_vector.md R130, R134, R136) -/

/-- Settles O38: on words the three sums are associative and commutative. -/
theorem dotProductOrderDoesNotMatter : Obligations.DotProductOrderDoesNotMatter := by
  intro u v
  simp only [vdot_eq, fadd_eq]
  refine ⟨BitVec.add_assoc .., ?_, ?_⟩
  · rw [BitVec.add_comm, BitVec.add_assoc]
  · rw [BitVec.add_comm (fmul u.y v.y)]

theorem vdot_comm (u v : Vec3) : vdot u v = vdot v u := by
  rw [vdot_eq, vdot_eq, fmul_comm u.x, fmul_comm u.y, fmul_comm u.z]

/-- Swapping the factors swaps the two products of each component. -/
theorem vcross_anticomm (u v : Vec3) :
    vcross u v = ⟨fneg (vcross v u).x, fneg (vcross v u).y, fneg (vcross v u).z⟩ := by
  simp only [vcross_eq, fneg_eq, neg_sub, fmul_comm u.x, fmul_comm u.y, fmul_comm u.z]

theorem vcross_self (u : Vec3) : vcross u u = ⟨0#32, 0#32, 0#32⟩ := by
  rw [vcross_eq, fmul_comm u.z u.y, fmul_comm u.x u.z, fmul_comm u.y u.x]
  simp only [BitVec.sub_self]

/-! ### Errors where nothing wraps (42_vector.md R136) -/

/-- `vdot` narrows the sum of the three floored products. -/
theorem vdot_eq_wrap32 (u v : Vec3) : vdot u v = wrap32 (asr (u.x.toInt * v.x.toInt) 24 +
    asr (u.y.toInt * v.y.toInt) 24 + asr (u.z.toInt * v.z.toInt) 24) :=
  (congrArg (fadd · (fmul u.z v.z)) (fadd_wrap32 ..)).trans (fadd_wrap32 ..)

/-- Each of the three floors is below its product by less than one ulp. -/
theorem vdot_error {u v : Vec3}
    (hlo : -2 ^ 31 ≤ asr (u.x.toInt * v.x.toInt) 24 + asr (u.y.toInt * v.y.toInt) 24 + asr (u.z.toInt * v.z.toInt) 24)
    (hhi : asr (u.x.toInt * v.x.toInt) 24 + asr (u.y.toInt * v.y.toInt) 24 + asr (u.z.toInt * v.z.toInt) 24 < 2 ^ 31) :
    let e := u.x.toInt * v.x.toInt + u.y.toInt * v.y.toInt + u.z.toInt * v.z.toInt - (vdot u v).toInt * 2 ^ 24
    0 ≤ e ∧ e < 3 * 2 ^ 24 := by
  have hx := asr_floor (u.x.toInt * v.x.toInt) 24
  have hy := asr_floor (u.y.toInt * v.y.toInt) 24
  have hz := asr_floor (u.z.toInt * v.z.toInt) 24
  rw [vdot_eq_wrap32, toInt_wrap32_of_range hlo hhi]
  omega

/-- The errors of the two floors have one sign, so their difference stays within one ulp. -/
theorem fsub_fmul_error {a b c d : Word}
    (hlo : -2 ^ 31 ≤ asr (a.toInt * b.toInt) 24 - asr (c.toInt * d.toInt) 24)
    (hhi : asr (a.toInt * b.toInt) 24 - asr (c.toInt * d.toInt) 24 < 2 ^ 31) :
    (a.toInt * b.toInt - c.toInt * d.toInt - (fsub (fmul a b) (fmul c d)).toInt * 2 ^ 24).natAbs < 2 ^ 24 := by
  have hab := asr_floor (a.toInt * b.toInt) 24
  have hcd := asr_floor (c.toInt * d.toInt) 24
  have hnarrow : fsub (fmul a b) (fmul c d) = wrap32 (asr (a.toInt * b.toInt) 24 - asr (c.toInt * d.toInt) 24) :=
    fsub_wrap32 ..
  rw [hnarrow, toInt_wrap32_of_range hlo hhi]
  omega

/-- Settles O39: the symmetries are those of `fmul` and of word subtraction, the errors those of the floors. -/
theorem vectorSymmetriesAndErrorBounds : Obligations.VectorSymmetriesAndErrorBounds :=
  ⟨vdot_comm, vcross_anticomm, fun _ _ => vdot_error, fun _ _ _ _ => fsub_fmul_error⟩

end Sys2Proof.Machine
end

section
/-! PROOF. The vector commands: their words, their writes and the range of their bases (42_vector.md R131 to R134). -/

namespace Sys2Proof

/-! ### The words of the group commands (30_encoding.md R83, R84) -/

/-- R84 for a word with a known opcode, its second and third check in whatever form they are stated. -/
theorem decode_eq_ite {w : Word} {o : Op} {R P : Prop} [Decidable R] [Decidable P] (ho : opcField w = o.code)
    (hR : reservedNonzero o w = true ↔ R) (hP : (o.build (dField w) (aField w) (bField w)).wellFormed = true ↔ P) :
    decode w = if R then .error .reservedBits
      else if P then .ok (o.build (dField w) (aField w) (bField w)) else .error .groupRange := by
  have hop : Op.ofCode? (opcField w) = some o := by rw [ho, Op.ofCode?_code]
  split
  · next h => exact decode_reservedBits hop (hR.mpr h)
  · next h =>
    have hr : reservedNonzero o w = false := Bool.eq_false_iff.mpr (mt hR.mp h)
    split
    · next hp => exact decode_command hop hr (hP.mpr hp)
    · next hp => exact decode_groupRange hop hr (Bool.eq_false_iff.mpr (mt hP.mp hp))

/-- A command that uses all its fields reserves bits 8:0 alone (30_encoding.md R86). -/
theorem reservedNonzero_iff_zField {o : Op} (w : Word) (ha : o.kindA ≠ .unused) (hb : o.kindB ≠ .unused) :
    reservedNonzero o w = true ↔ zField w ≠ 0#9 := by
  simp [reservedNonzero, Kind.unusedNonzero, ha, hb]

/-! ### Which bases are in range (30_encoding.md R87) -/

theorem wellFormed_vadd_iff (d a b : RegIdx) :
    (Instr.vadd d a b).wellFormed = true ↔ d.val ≤ 29 ∧ a.val ≤ 29 ∧ b.val ≤ 29 :=
  (Op.wellFormed_build_iff .vadd d a b).trans (by simp [Op.kindD, Op.kindA, Op.kindB])

theorem wellFormed_vscale_iff (d a b : RegIdx) :
    (Instr.vscale d a b).wellFormed = true ↔ d.val ≤ 29 ∧ a.val ≤ 29 :=
  (Op.wellFormed_build_iff .vscale d a b).trans (by simp [Op.kindD, Op.kindA, Op.kindB])

theorem wellFormed_vdot_iff (d a b : RegIdx) :
    (Instr.vdot d a b).wellFormed = true ↔ a.val ≤ 29 ∧ b.val ≤ 29 :=
  (Op.wellFormed_build_iff .vdot d a b).trans (by simp [Op.kindD, Op.kindA, Op.kindB])

theorem wellFormed_vcross_iff (d a b : RegIdx) :
    (Instr.vcross d a b).wellFormed = true ↔ d.val ≤ 29 ∧ a.val ≤ 29 ∧ b.val ≤ 29 :=
  wellFormed_vadd_iff d a b

end Sys2Proof

namespace Sys2Proof.Machine

/-! ### What a command with a vector destination writes (10_state.md R22, R30) -/

/-- A well-formed command whose rule answers the writes of one vector group succeeds with those three writes. -/
theorem exec_writes_vector {i : Instr} {sem : RegFile → Result} {s : State} {d : RegIdx} {x y z : Word}
    (he : exec i s = perform i sem s) (hw : i.wellFormed = true)
    (hs : sem (s.snapshotOf i) = .ok (vectorWrites d ⟨x, y, z⟩)) :
    ∃ t, exec i s = .next t ∧ Succeeded s t [(d, x), (d + 1, y), (d + 2, z)] := by
  rw [he]
  exact perform_succeeds hw hs (vectorWrites_nodup d ⟨x, y, z⟩)

/-- `exec_out_of_range` with the range of the command's bases in whatever form it is stated. -/
theorem exec_not_in_range {i : Instr} {P : Prop} (s : State) (hP : i.wellFormed = true ↔ P) (h : ¬ P) :
    ∃ t, exec i s = .next t ∧ Failed s t .groupRange (s.wordOf i) :=
  exec_out_of_range s (Bool.eq_false_iff.mpr (mt hP.mp h))

/-- Settles O27, by `exec_writes_vector` on `vadd_eq`, `exec_not_in_range` and `decode_eq_ite`. -/
theorem vaddAddsTheComponents : Obligations.VaddAddsTheComponents :=
  ⟨fun d a b _ hd ha hb => exec_writes_vector rfl ((wellFormed_vadd_iff d a b).mpr ⟨hd, ha, hb⟩)
      (congrArg (Except.ok ∘ vectorWrites d) (vadd_eq ..)),
    fun d a b s h => exec_not_in_range s (wellFormed_vadd_iff d a b) (by omega),
    fun w ho => decode_eq_ite (o := .vadd) ho (reservedNonzero_iff_zField w nofun nofun) (wellFormed_vadd_iff ..),
    by decide, by decide, by decide⟩

/-- Settles O28, by `exec_writes_vector`, `exec_not_in_range` and `decode_eq_ite`; the scalar `b` has no range. -/
theorem vscaleScalesTheComponents : Obligations.VscaleScalesTheComponents :=
  ⟨fun d a b _ hd ha => exec_writes_vector rfl ((wellFormed_vscale_iff d a b).mpr ⟨hd, ha⟩) rfl,
    fun d a b s h => exec_not_in_range s (wellFormed_vscale_iff d a b) (by omega),
    fun w ho => decode_eq_ite (o := .vscale) ho (reservedNonzero_iff_zField w nofun nofun) (wellFormed_vscale_iff ..),
    by decide, by decide⟩

/-- Settles O29, by `exec_writes_scalar` on `vdot_eq`, `exec_not_in_range` and `decode_eq_ite`; the scalar `d` has no
range. -/
theorem vdotWritesTheDotProduct : Obligations.VdotWritesTheDotProduct :=
  ⟨fun d a b _ ha hb => exec_writes_scalar rfl ((wellFormed_vdot_iff d a b).mpr ⟨ha, hb⟩)
      (congrArg (Except.ok ∘ scalarWrites d) (vdot_eq ..)),
    fun d a b s h => exec_not_in_range s (wellFormed_vdot_iff d a b) (by omega),
    fun w ho => decode_eq_ite (o := .vdot) ho (reservedNonzero_iff_zField w nofun nofun) (wellFormed_vdot_iff ..),
    by decide, by decide, by decide⟩

/-- Settles O30, by `exec_writes_vector` on `vcross_eq`, `exec_not_in_range`, `decode_eq_ite` and `vcross_self`. -/
theorem vcrossWritesTheCrossProduct : Obligations.VcrossWritesTheCrossProduct :=
  ⟨fun d a b _ hd ha hb => exec_writes_vector rfl ((wellFormed_vcross_iff d a b).mpr ⟨hd, ha, hb⟩)
      (congrArg (Except.ok ∘ vectorWrites d) (vcross_eq ..)),
    fun d a b s h => exec_not_in_range s (wellFormed_vcross_iff d a b) (by omega),
    fun w ho => decode_eq_ite (o := .vcross) ho (reservedNonzero_iff_zField w nofun nofun) (wellFormed_vcross_iff ..),
    vcross_self, by decide⟩

end Sys2Proof.Machine
end

section
/-! PROOF. The quaternion functions in components: the Hamilton product, the rotation with its doubling, and the laws of
the identity (43_quaternion.md R150, R151, R155). -/

namespace Sys2Proof.Machine

/-! ### The Hamilton product (43_quaternion.md R150, R151) -/

theorem qmul_eq (p q : Quat) : qmul p q =
    ⟨fmul p.w q.w - fmul p.v.x q.v.x - fmul p.v.y q.v.y - fmul p.v.z q.v.z,
     (fmul p.v.y q.v.z - fmul p.v.z q.v.y) + fmul q.v.x p.w + fmul p.v.x q.w,
     (fmul p.v.z q.v.x - fmul p.v.x q.v.z) + fmul q.v.y p.w + fmul p.v.y q.w,
     (fmul p.v.x q.v.y - fmul p.v.y q.v.x) + fmul q.v.z p.w + fmul p.v.z q.w⟩ := by
  simp only [qmul, fsub_eq, vdot_eq, vadd_eq, vcross_eq, vscale, sub_add_eq_sub_sub]

/-- Settles O41, by `qmul_eq`. -/
theorem hamiltonProductComponents : Obligations.HamiltonProductComponents :=
  fun _ _ _ _ _ _ _ _ => qmul_eq ..

/-! ### The rotation and its doubling (43_quaternion.md R150) -/

/-- Doubling is exact before it wraps, as is the product with 2.0, which discards no bit. -/
theorem fmul_two_right (c : Word) : fmul c 0x02000000#32 = double c := by
  have htwo : sint32 0x02000000#32 = 2 * 2 ^ 24 := by decide
  have hexact : asr (sint32 c * sint32 0x02000000#32) Config.fractionBits = 2 * sint32 c := by
    rw [htwo, Int.mul_left_comm, ← Int.mul_assoc]
    exact Int.mul_ediv_cancel _ (by decide)
  rw [fmul, hexact, double]

theorem vdouble_eq (c : Vec3) : vdouble c = ⟨c.x + c.x, c.y + c.y, c.z + c.z⟩ := by
  simp only [vdouble, double_eq]

theorem vscale_two (c : Vec3) : vscale c 0x02000000#32 = vdouble c := by
  simp only [vscale, vdouble, fmul_two_right]

theorem qrot_eq (q : Quat) (v : Vec3) : qrot q v =
    let t := vdouble (vcross q.v v)
    ⟨v.x + fmul t.x q.w + (fmul q.v.y t.z - fmul q.v.z t.y),
     v.y + fmul t.y q.w + (fmul q.v.z t.x - fmul q.v.x t.z),
     v.z + fmul t.z q.w + (fmul q.v.x t.y - fmul q.v.y t.x)⟩ := by
  rw [qrot, vadd_eq, vadd_eq, vcross_eq q.v (vdouble _), vscale]

/-- Settles O40: R150's order with the doubling as `vscale_two`, and the two vectors by evaluation. -/
theorem qrotDoublesBeforeRounding : Obligations.QrotDoublesBeforeRounding := by
  refine ⟨fun c => (fmul_two_right c).symm, fun q v => ?_, by decide, by decide⟩
  rw [vscale_two, qrot]

/-! ### The identity (43_quaternion.md R155) -/

theorem qmul_qident_left (q : Quat) : qmul qident q = q := by
  simp [qmul_eq, qident]

theorem qmul_qident_right (q : Quat) : qmul q qident = q := by
  simp [qmul_eq, qident]

theorem vcross_zero_left (v : Vec3) : vcross ⟨0#32, 0#32, 0#32⟩ v = ⟨0#32, 0#32, 0#32⟩ := by
  simp [vcross_eq]

/-- With an imaginary part of zero both terms that `qrot` adds to the vector are zero. -/
theorem qrot_qident (v : Vec3) : qrot qident v = v := by
  simp [qrot_eq, qident, vcross_zero_left, vdouble_eq]

/-- Settles O42, by the three laws of `qident`. -/
theorem identityQuaternionLaws : Obligations.IdentityQuaternionLaws :=
  ⟨qmul_qident_left, qmul_qident_right, qrot_qident⟩

end Sys2Proof.Machine
end

section
/-! PROOF. The quaternion commands: their words, their writes and the range of their bases (43_quaternion.md R152 to
R154). -/

namespace Sys2Proof

/-! ### Reserved fields and bases in range (30_encoding.md R86, R87) -/

/-- QID uses neither `a` nor `b`, so both are reserved beside bits 8:0. -/
theorem reservedNonzero_qid_iff (w : Word) :
    reservedNonzero .qid w = true ↔ zField w ≠ 0#9 ∨ aField w ≠ 0 ∨ bField w ≠ 0 := by
  simp [reservedNonzero, Kind.unusedNonzero, Op.kindA, Op.kindB, or_assoc]

theorem wellFormed_qid_iff (d : RegIdx) : (Instr.qid d).wellFormed = true ↔ d.val ≤ 28 :=
  (Op.wellFormed_build_iff .qid d 0 0).trans (by simp [Op.kindD, Op.kindA, Op.kindB])

theorem wellFormed_qmul_iff (d a b : RegIdx) :
    (Instr.qmul d a b).wellFormed = true ↔ d.val ≤ 28 ∧ a.val ≤ 28 ∧ b.val ≤ 28 :=
  (Op.wellFormed_build_iff .qmul d a b).trans (by simp [Op.kindD, Op.kindA, Op.kindB])

theorem wellFormed_qrot_iff (d a b : RegIdx) :
    (Instr.qrot d a b).wellFormed = true ↔ d.val ≤ 29 ∧ a.val ≤ 28 ∧ b.val ≤ 29 :=
  (Op.wellFormed_build_iff .qrot d a b).trans (by simp [Op.kindD, Op.kindA, Op.kindB])

end Sys2Proof

namespace Sys2Proof.Machine

/-! ### What a command with a quaternion destination writes (10_state.md R22, R30) -/

/-- A well-formed command whose rule answers the writes of one quaternion group succeeds with those four writes. -/
theorem exec_writes_quaternion {i : Instr} {sem : RegFile → Result} {s : State} {d : RegIdx} {w x y z : Word}
    (he : exec i s = perform i sem s) (hw : i.wellFormed = true)
    (hs : sem (s.snapshotOf i) = .ok (quatWrites d ⟨w, x, y, z⟩)) :
    ∃ t, exec i s = .next t ∧ Succeeded s t [(d, w), (d + 1, x), (d + 2, y), (d + 3, z)] := by
  rw [he]
  exact perform_succeeds hw hs (quatWrites_nodup d ⟨w, x, y, z⟩)

/-- Settles O31, by `exec_writes_quaternion`, `exec_not_in_range`, and `decode_eq_ite` with QID's reserved fields. -/
theorem qidWritesTheIdentity : Obligations.QidWritesTheIdentity :=
  ⟨fun d _ hd => exec_writes_quaternion rfl ((wellFormed_qid_iff d).mpr hd) rfl,
    fun d s h => exec_not_in_range s (wellFormed_qid_iff d) h.not_ge,
    fun w ho => decode_eq_ite (o := .qid) ho (reservedNonzero_qid_iff w) (wellFormed_qid_iff _),
    by decide, by decide, by decide⟩

/-- Settles O32, by `exec_writes_quaternion` on `qmul_eq`, `exec_not_in_range` and `decode_eq_ite`. -/
theorem qmulWritesTheHamiltonProduct : Obligations.QmulWritesTheHamiltonProduct :=
  ⟨fun d a b _ hd ha hb => exec_writes_quaternion rfl ((wellFormed_qmul_iff d a b).mpr ⟨hd, ha, hb⟩)
      (congrArg (Except.ok ∘ quatWrites d) (qmul_eq ..)),
    fun d a b s h => exec_not_in_range s (wellFormed_qmul_iff d a b) (by omega),
    fun w ho => decode_eq_ite (o := .qmul) ho (reservedNonzero_iff_zField w nofun nofun) (wellFormed_qmul_iff ..),
    by decide, by decide, by decide, by decide, by decide, by decide⟩

/-- The half ulp of the cross product is floored to 0 for `q` and to -1 ulp for `-q`, so only `-q` moves the vector. -/
theorem qrot_neg_ne : qrot ⟨0x01000000#32, 0#32, 0#32, 1#32⟩ ⟨0x00800000#32, 0#32, 0#32⟩ ≠
    qrot ⟨fneg 0x01000000#32, fneg 0#32, fneg 0#32, fneg 1#32⟩ ⟨0x00800000#32, 0#32, 0#32⟩ := by
  have hq : qrot ⟨0x01000000#32, 0#32, 0#32, 1#32⟩ ⟨0x00800000#32, 0#32, 0#32⟩ = ⟨0x00800000#32, 0#32, 0#32⟩ := by
    decide
  have hneg : qrot ⟨fneg 0x01000000#32, fneg 0#32, fneg 0#32, fneg 1#32⟩ ⟨0x00800000#32, 0#32, 0#32⟩ =
      ⟨0x00800000#32, 2#32, 0#32⟩ := by
    decide
  rw [hq, hneg]
  decide

/-- Settles O33, by `exec_writes_vector` on `qrot_eq`, `exec_not_in_range` and `decode_eq_ite`; the identity by
`qrot_qident`, the rounding of `-q` by `qrot_neg_ne`. -/
theorem qrotWritesTheRotatedVector : Obligations.QrotWritesTheRotatedVector :=
  ⟨fun d a b _ hd ha hb => exec_writes_vector rfl ((wellFormed_qrot_iff d a b).mpr ⟨hd, ha, hb⟩)
      (congrArg (Except.ok ∘ vectorWrites d) (qrot_eq ..)),
    fun d a b s h => exec_not_in_range s (wellFormed_qrot_iff d a b) (by omega),
    fun w ho => decode_eq_ite (o := .qrot) ho (reservedNonzero_iff_zField w nofun nofun) (wellFormed_qrot_iff ..),
    vdouble_eq, by decide, ⟨_, _, _, _, _, qrot_neg_ne⟩, qrot_qident,
    by decide, by decide, by decide, by decide, by decide, by decide⟩

end Sys2Proof.Machine
end

section
/-! PROOF. The step always answers, an idle engine, and the errors of commands: their order, their codes, how they are
recorded and acknowledged, and the overrun of a dropped host write (60_exceptions.md R171 to R178, R190). -/

namespace Sys2Proof.Machine

/-! ### The step always answers, and an idle engine (60_exceptions.md R177, R179, R190) -/

/-- Settles O7, by the four cases of a step, each of which answers a next state. -/
theorem everyStepAnswersANextState : Obligations.EveryStepAnswersANextState := by
  intro s
  obtain ⟨-, -, e⟩ | ⟨_, _, -, -, -, e⟩ | ⟨_, _, -, e⟩ | ⟨_, -, e⟩ := step_cases s <;> exact ⟨_, e⟩

theorem popTurn_of_cons {s : State} {u : Turn} {rest : List Turn} (h : s.turns = u :: rest) :
    s.popTurn = { s with turns := rest } := by
  rw [State.popTurn, h, List.tail_cons]

/-- Settles O10: the engine's turn with an empty slot only takes a turn off, and with no turn left there is none to
take. -/
theorem idleEngineChangesNothing : Obligations.IdleEngineChangesNothing := by
  refine ⟨fun s ht hs => ?_, fun s rest hs ht => ?_, fun s k => runToEnd_ended k⟩
  · rw [step_engine_idle (.inl ht) hs, popTurn_of_nil ht]
  · rw [step_engine_idle (.inr ⟨rest, ht⟩) hs, popTurn_of_cons ht]

/-! ### How a completion ends (60_exceptions.md R177) -/

theorem kindRegs_nodup (k : Kind) (f : RegIdx) : (kindRegs k f).Nodup := by
  cases k with
  | scalar => exact List.nodup_singleton f
  | unused => exact List.nodup_nil
  | vector | quaternion =>
    revert f
    decide

theorem writesOf_nodup (i : Instr) : (writesOf i).Nodup := kindRegs_nodup _ _

/-- Settles O44: the two ends of `step_completes`, in the terms of `Failed` and `Succeeded`. -/
theorem completionSucceedsOrFailsPrecisely : Obligations.CompletionSucceedsOrFailsPrecisely := by
  intro s t c hc hn hstep
  obtain ⟨i, ws, hd, hws, e⟩ | ⟨x, hx, e⟩ := step_completes hn hc <;> cases hstep.symm.trans e
  · exact .inr ⟨i, ws, hd, hws, complete_ok_succeeded _ _ _ (hws ▸ writesOf_nodup i)⟩
  · exact .inl ⟨x, hx, complete_error_failed _ _ _⟩

/-! ### Which error is reported (60_exceptions.md R172, R175) -/

/-- On the engine's turn the slot's command completes with the error that executing it ends in. -/
theorem step_exec_fails {s : State} {c : Command} {i : Instr} {e : CmdError} (hc : s.inflight = some c)
    (hn : s.EngineNext) (hd : decode c.word = .ok i)
    (h : ∃ t, exec i s.popTurn = .next t ∧ Failed s.popTurn t e (s.popTurn.wordOf i)) :
    ∃ t, step s = .next t ∧ Failed s.popTurn t e c.word := by
  rwa [step_engine_run hn hc, runCommand_ok _ hd, ← commandOf_of_inflight (s := s.popTurn) i hc]

theorem snapshotOf_popTurn {s : State} {c : Command} (i : Instr) (hc : s.inflight = some c) :
    s.popTurn.snapshotOf i = c.operands :=
  congrArg Command.operands (commandOf_of_inflight (s := s.popTurn) i hc)

/-- Settles O18: the decoder's checks in their order, and after a decode the errors of DIV and TOINTS. -/
theorem errorPriority : Obligations.ErrorPriority := by
  refine ⟨fun _ => decode_illegalOpcode, fun _ _ => decode_reservedBits, fun _ _ => decode_groupRange,
    fun _ _ _ => step_decode_error, fun s c d a b hc hn hd hz => ?_, fun s c d a b hc hn hd hz => ?_,
    by decide, by decide⟩
  · refine step_exec_fails hc hn hd (execDiv_divZero ?_)
    rwa [snapshotOf_popTurn _ hc]
  · refine step_exec_fails hc hn hd (execToints_scaleZero ?_)
    rw [snapshotOf_popTurn _ hc]
    exact hz.imp_left (sint32_eq_zero _).mpr

/-- The codes a word can raise, by its opcode: 1 without one; with one 2, or 3 if its bases can be out of range, or the
code of DIV's or TOINTS's own error. -/
theorem errorOf_cases {w : Word} {code : BitVec 4} (h : errorOf w code) :
    (Op.ofCode? (opcField w) = none ∧ code = 1#4) ∨
    ∃ o, Op.ofCode? (opcField w) = some o ∧
      (code = 2#4 ∨ (code = 3#4 ∧ ∃ d a b, (o.build d a b).wellFormed = false) ∨
        (o = .div ∧ code = 4#4) ∨ (o = .toints ∧ code = 5#4)) := by
  obtain ⟨ho, e⟩ | ⟨o, ho, -, e⟩ | ⟨o, ho, -, hw, e⟩ | ⟨o, ho, -, -, e⟩ := decode_cases w <;> rw [errorOf, e] at h
  · exact .inl ⟨ho, h⟩
  · exact .inr ⟨o, ho, .inl h⟩
  · exact .inr ⟨o, ho, .inr (.inl ⟨h, _, _, _, hw⟩)⟩
  · refine .inr ⟨o, ho, .inr (.inr ?_)⟩
    cases o with
    | div => exact .inl ⟨rfl, h⟩
    | toints => exact .inr ⟨rfl, h⟩
    | _ => exact h.elim

/-- A completion that sets ERR records a code that the command word can raise. -/
theorem errorOf_of_step_sets_err {s t : State} {c : Command} (hc : s.inflight = some c) (hn : s.EngineNext)
    (hs : s.err = false) (hstep : step s = .next t) (ht : t.err = true) : errorOf c.word t.ecode := by
  obtain ⟨e, he, hfail⟩ | ⟨i, ws, -, -, hsucc⟩ := completionSucceedsOrFailsPrecisely s t c hc hn hstep
  · rwa [hfail.ecode, popTurn_err, hs]
  · cases hs.symm.trans (hsucc.err.symm.trans ht)

/-- Settles O19, by `errorOf_cases`: only an opcode with a group operand builds an ill-formed command. -/
theorem eachCommandFailsOnlyWithItsCodes : Obligations.EachCommandFailsOnlyWithItsCodes := by
  intro s t c hc hn hs hstep ht
  obtain ⟨ho, h⟩ | ⟨o, ho, h⟩ := errorOf_cases (errorOf_of_step_sets_err hc hn hs hstep ht) <;> rw [ho]
  · exact h
  · obtain h | ⟨h, d, a, b, hw⟩ | ⟨rfl, h⟩ | ⟨rfl, h⟩ := h
    · cases o with
      | add | sub | mul | neg | fromint => exact h
      | _ => exact .inl h
    · cases o with
      | add | sub | mul | neg | fromint | div | toints => cases hw
      | _ => exact .inr h
    · exact .inr h
    · exact .inr h

/-! ### The recorded error and its acknowledgement (60_exceptions.md R173, R178) -/

/-- While ERR is 1 no completion touches the error record. -/
theorem complete_keeps_first_error {s : State} (h : s.err = true) (w : Word) (r : Result) :
    (s.complete w r).err = true ∧ (s.complete w r).ecode = s.ecode ∧ (s.complete w r).errcmd = s.errcmd := by
  cases r with
  | ok ws =>
    rw [complete_ok, writeRegs_frame]
    exact ⟨h, rfl, rfl⟩
  | error e => exact ⟨rfl, if_pos h, if_pos h⟩

theorem writeRegs_regs_congr {s u : State} (h : s.regs = u.regs) (ws : List RegWrite) :
    (s.writeRegs ws).regs = (u.writeRegs ws).regs := by
  induction ws generalizing s u with
  | nil => exact h
  | cons p ws ih => exact ih (by rw [State.writeReg_regs, State.writeReg_regs, h])

/-- What a completion leaves in the registers depends on the registers and the result alone. -/
theorem complete_regs_congr {s u : State} (h : s.regs = u.regs) (w : Word) (r : Result) :
    (s.complete w r).regs = (u.complete w r).regs := by
  cases r with
  | ok ws => exact writeRegs_regs_congr h ws
  | error e => exact h

/-- Acknowledging an error changes neither the result of a command nor the word it completes: they come from the slot,
or from the register file. -/
theorem exec_acknowledgeError (i : Instr) (s : State) : ∃ w r, exec i s = .next (s.complete w r) ∧
    exec i s.acknowledgeError = .next (s.acknowledgeError.complete w r) := by
  cases i <;> exact ⟨_, _, rfl, rfl⟩

/-- Settles O45: the write to STATUS as O49 says it, and for a completion with ERR = 1 `complete_keeps_first_error`. -/
theorem errorIsAcknowledgedByWritingOne : Obligations.ErrorIsAcknowledgedByWritingOne := by
  refine ⟨fun s v rest ht hv => ?_, fun i s hs => ?_, fun s c e hc hn hs hd => ?_⟩
  · obtain ⟨-, -, hwrite⟩ := statusReadAndWriteOneToClear
    exact ⟨_, hwrite s v rest ht, if_pos hv, if_pos hv, if_pos hv, rfl, rfl, rfl⟩
  · obtain ⟨w, r, ht, hu⟩ := exec_acknowledgeError i s
    obtain ⟨herr, hecode, herrcmd⟩ := complete_keeps_first_error hs w r
    have hregs := complete_regs_congr (State.acknowledgeError_regs s).symm w r
    exact ⟨_, _, ht, hu, hregs, (complete_retired w r s).1.done, herr, hecode, herrcmd⟩
  · obtain ⟨t, hstep, hfail⟩ := step_decode_error hc hn hd
    exact ⟨t, hstep, hfail.err, hfail.ecode.trans (if_pos hs), hfail.errcmd.trans (if_pos hs), hfail.retired.done⟩

/-! ### The overrun (60_exceptions.md R174, 70_reset_and_hazards.md R210) -/

/-- The hazard's transactions: the supported writes to a register or to CMD. -/
theorem dropped_iff (t : Transaction) : t.dropped = true ↔ t.supported = true ∧
    (∃ lanes v, t.access = .write lanes v) ∧ ((∃ i, windowReg t.off = .gpr i) ∨ windowReg t.off = .cmd) := by
  cases ha : t.access <;> cases hr : windowReg t.off <;> simp [Transaction.dropped, ha, hr]

/-- While BUSY = 1 a write to a register or to CMD is dropped. -/
theorem writeWord_busy {r : WindowReg} {s : State} (v : Word) (hr : (∃ i, r = .gpr i) ∨ r = .cmd)
    (hb : s.busy = true) : s.writeWord r v = s.recordOverrun := by
  obtain ⟨i, rfl⟩ | rfl := hr
  · exact hostWriteReg_busy i v hb
  · exact hostWriteCmd_busy v hb

/-- A host write sets OVR only if it is one to a register or to CMD and BUSY is 1. -/
theorem writeWord_sets_ovr {r : WindowReg} {v : Word} {s : State} (hs : s.ovr = false)
    (h : (s.writeWord r v).ovr = true) : ((∃ i, r = .gpr i) ∨ r = .cmd) ∧ s.busy = true := by
  cases r with
  | gpr i =>
    refine ⟨.inl ⟨i, rfl⟩, Bool.eq_true_of_not_eq_false fun hb => ?_⟩
    rw [State.writeWord, hostWriteReg_idle i v hb] at h
    cases hs.symm.trans h
  | cmd =>
    refine ⟨.inr rfl, Bool.eq_true_of_not_eq_false fun hb => ?_⟩
    rw [State.writeWord, hostWriteCmd_idle v hb] at h
    cases hs.symm.trans h
  | status => simp [State.writeWord, hostWriteStatus_eq, hs] at h
  | ctrl =>
    cases hv : v[2] with
    | true => simp [State.writeWord, hostWriteCtrl_srst s hv] at h
    | false => simp [State.writeWord, hostWriteCtrl_enables s hv, hs] at h
  | errcmd | id | reserved => cases hs.symm.trans h

/-- A transaction sets OVR only if the busy hazard drops it. -/
theorem transact_sets_ovr {t : Transaction} {s : State} (hs : s.ovr = false) (h : (s.transact t).ovr = true) :
    t.dropped = true ∧ s.busy = true := by
  obtain ⟨_, _, e⟩ | ⟨lanes, v, hsup, ha, e⟩ := transact_cases t s <;> rw [e] at h
  · cases hs.symm.trans h
  · obtain ⟨hr, hb⟩ := writeWord_sets_ovr hs h
    exact ⟨(dropped_iff t).mpr ⟨hsup, ⟨lanes, v, ha⟩, hr⟩, hb⟩

/-- A transaction that the busy hazard drops sets OVR and is answered with Ok, and that is all. -/
theorem transact_dropped {t : Transaction} {s : State} (h : t.dropped = true) (hb : s.busy = true) :
    s.transact t = { s with reply := some .ok, ovr := true } := by
  obtain ⟨hsup, ⟨lanes, v, ha⟩, hr⟩ := (dropped_iff t).mp h
  rw [transact_write s hsup ha, writeWord_busy v hr hb, State.recordOverrun]

/-- Settles O55, by the cases of a step: a completion and the engine's idle turn keep OVR, a reset clears it, and a host
access sets it as `transact_sets_ovr` says. -/
theorem overrunRecordsOnlyADroppedWrite : Obligations.OverrunRecordsOnlyADroppedWrite := by
  refine ⟨fun s t hstep hs ht => ?_, fun s u rest hts hdrop hb => ?_⟩
  · obtain ⟨-, -, e⟩ | ⟨c, r, -, -, -, e⟩ | ⟨u, rest, hts, e⟩ | ⟨rest, -, e⟩ := step_cases s <;>
      cases hstep.symm.trans e
    · cases hs.symm.trans ht
    · have hkeep := (complete_retired c.word r s.popTurn).2.ovr
      cases hs.symm.trans (hkeep.symm.trans ht)
    · exact ⟨u, rest, hts, transact_sets_ovr (s := { s with turns := rest }) hs ht⟩
    · cases ht
  · rw [step_host hts, transact_dropped (s := { s with turns := rest }) hdrop hb]

end Sys2Proof.Machine
end

section
/-! PROOF. Hardware reset, the unwritten registers, the busy hazard's two runs, and the end of a run
(70_reset_and_hazards.md R200, R201, R204, R211, R214). -/

namespace Sys2Proof.Machine

/-! ### Hardware reset (70_reset_and_hazards.md R200, R201) -/

/-- STATUS, CTRL and irq depend on nothing of what the reset leaves from the state before. -/
theorem hardwareReset_words (s : State) :
    s.hardwareReset.statusWord = 0#32 ∧ s.hardwareReset.ctrlWord = 0#32 ∧ s.hardwareReset.irq = false :=
  ⟨by simp [State.statusWord], by simp [State.ctrlWord], rfl⟩

theorem hardwareReset_written_get (s : State) (i : RegIdx) : s.hardwareReset.written[i] = false := by
  simp

/-- Settles O2: the turn is the reset's, and its words are those of `hardwareReset_words`. -/
theorem hardwareResetAbortsTheCommand : Obligations.HardwareResetAbortsTheCommand := by
  intro s rest h
  obtain ⟨hstatus, hctrl, hirq⟩ := hardwareReset_words { s with turns := rest }
  exact ⟨_, step_hardReset h, hstatus, hctrl, rfl, rfl, hirq, rfl, hardwareReset_written_get _, rfl, rfl, rfl⟩

/-! ### Unwritten registers (70_reset_and_hazards.md R204, log 3) -/

/-- A register write marks its register, and leaves every other register and mark. -/
theorem writeReg_unwrittenAtReset {s : State} (h : s.UnwrittenAtReset) (i : RegIdx) (v : Word) :
    (s.writeReg i v).UnwrittenAtReset := by
  intro j hj
  rw [writeReg_written_get] at hj
  rw [writeReg_regs_get]
  by_cases hij : i = j
  · simp [hij] at hj
  · rw [if_neg hij] at hj ⊢
    exact h j hj

theorem writeRegs_unwrittenAtReset {s : State} (h : s.UnwrittenAtReset) (ws : List RegWrite) :
    (s.writeRegs ws).UnwrittenAtReset := by
  induction ws generalizing s with
  | nil => exact h
  | cons p ws ih => exact ih (writeReg_unwrittenAtReset h p.1 p.2)

theorem complete_unwrittenAtReset {s : State} (h : s.UnwrittenAtReset) (w : Word) (r : Result) :
    (s.complete w r).UnwrittenAtReset := by
  cases r with
  | ok ws => exact writeRegs_unwrittenAtReset h ws
  | error e => exact h

theorem WriteEffect.unwrittenAtReset {r : WindowReg} {v : Word} {s u : State} (he : WriteEffect r v s u)
    (h : s.UnwrittenAtReset) : u.UnwrittenAtReset := by
  cases he with
  | register i => exact writeReg_unwrittenAtReset h i v
  | cleared =>
    rw [hostWriteStatus_eq]
    exact h
  | ignored | dropped | accepted | softReset | enables => exact h

theorem transact_unwrittenAtReset {s : State} (h : s.UnwrittenAtReset) (t : Transaction) :
    (s.transact t).UnwrittenAtReset := by
  obtain ⟨_, _, e⟩ | ⟨_, v, -, -, e⟩ := transact_cases t s <;> rw [e]
  · exact h
  · exact (writeWord_effect (windowReg t.off) v s).unwrittenAtReset h

theorem hardwareReset_unwrittenAtReset (s : State) : s.hardwareReset.UnwrittenAtReset := by
  intro i _
  simp

/-- Settles O6, by the cases of a step: a write marks the register it changes, and a hardware reset puts back the reset
word with the mark. -/
theorem stepKeepsUnwrittenAtReset : Obligations.StepKeepsUnwrittenAtReset := by
  intro s t h hstep
  obtain ⟨-, -, e⟩ | ⟨c, r, -, -, -, e⟩ | ⟨u, rest, -, e⟩ | ⟨rest, -, e⟩ := step_cases s <;>
    cases hstep.symm.trans e
  · exact h
  · exact complete_unwrittenAtReset (s := s.popTurn) h c.word r
  · exact transact_unwrittenAtReset (s := { s with turns := rest }) h u
  · exact hardwareReset_unwrittenAtReset _

/-! ### A write without polling (70_reset_and_hazards.md R210, R211) -/

/-- The host's write to CMD puts the command in the idle engine's slot, with the registers as they are. -/
theorem step_issues {s : State} {w : Word} {rest : List Turn} (h : s.turns = .host (memWrite 0x80#8 w) :: rest)
    (hb : s.busy = false) :
    ∃ t, step s = .next t ∧ t.inflight = some ⟨w, s.regs⟩ ∧ t.busy = true ∧ t.ovr = s.ovr ∧ t.turns = rest := by
  obtain ⟨accepts, -, -⟩ := cmdWriteAcceptsOrOverruns
  exact ⟨_, accepts s w rest h hb, rfl, rfl, rfl, rfl⟩

/-- On the engine's turn an ADD in flight writes the sum of its snapshot's two registers (41_scalar.md R101). -/
theorem step_completes_add {s : State} {c : Command} {d a b : RegIdx} (hn : s.EngineNext) (hc : s.inflight = some c)
    (hd : decode c.word = .ok (.add d a b)) :
    ∃ t, step s = .next t ∧ Succeeded s.popTurn t [(d, c.operands[a] + c.operands[b])] := by
  rw [step_engine_run hn hc, runCommand_ok _ hd, ← fadd_eq, ← snapshotOf_popTurn (.add d a b) hc]
  exact exec_writes_scalar rfl rfl rfl

/-- Settles O57: both runs accept the ADD first; then the completion empties the slot before the write, or the write
finds BUSY = 1, is dropped, and the completion follows. -/
theorem unpolledWriteHasTwoRuns : Obligations.UnpolledWriteHasTwoRuns := by
  intro s d a b v _ hbusy hovr
  obtain ⟨writes, drops, -, -⟩ := hostRegisterAccess
  have hdec : decode (encode (.add d a b)) = .ok (.add d a b) := decode_encode rfl
  constructor
  · obtain ⟨s1, hissue, hslot, -, hovr1, hts1⟩ := step_issues
      (s := { s with turns :=
        [.host (memWrite 0x80#8 (encode (.add d a b))), .engine, .host (memWrite (regOffset d) v)] }) rfl hbusy
    obtain ⟨s2, hrun, hsucc⟩ := step_completes_add (.inr ⟨_, hts1⟩) hslot hdec
    have hts2 : s2.turns = [.host (memWrite (regOffset d) v)] := by
      rw [hsucc.untouched.turns, popTurn_turns, hts1, List.tail_cons]
    refine ⟨s1, s2, _, hissue, hrun, writes s2 d v [] hts2 hsucc.retired.busy, ?_,
      hsucc.untouched.ovr.trans (hovr1.trans hovr), hsucc.retired.inflight⟩
    exact (getElem_set_regIdx s2.regs d d v).trans (if_pos rfl)
  · obtain ⟨s1, hissue, hslot, hbusy1, -, hts1⟩ := step_issues
      (s := { s with turns :=
        [.host (memWrite 0x80#8 (encode (.add d a b))), .host (memWrite (regOffset d) v), .engine] }) rfl hbusy
    obtain ⟨t, hrun, hsucc⟩ := step_completes_add
      (s := { s1 with turns := [.engine], reply := some .ok, ovr := true }) (.inr ⟨[], rfl⟩) hslot hdec
    exact ⟨s1, _, t, hissue, drops s1 d v _ hts1 hbusy1, hrun, hsucc.result _ List.mem_cons_self,
      hsucc.untouched.ovr, hsucc.retired.inflight⟩

/-! ### The end of a run (70_reset_and_hazards.md R214) -/

/-- Every step takes the first turn off, and no turn where none is left. -/
theorem step_turns {s t : State} (h : step s = .next t) : t.turns = s.turns.tail := by
  obtain ⟨-, -, e⟩ | ⟨c, r, -, -, -, e⟩ | ⟨u, rest, hts, e⟩ | ⟨rest, hts, e⟩ := step_cases s <;>
    cases h.symm.trans e
  · rfl
  · exact (complete_retired c.word r s.popTurn).2.turns
  · rw [transact_turns, hts, List.tail_cons]
  · rw [State.hardwareReset_turns, hts, List.tail_cons]

/-- With no turn left one step empties the slot, whatever it holds. -/
theorem step_inflight_of_no_turns {s t : State} (hts : s.turns = []) (h : step s = .next t) : t.inflight = none := by
  obtain ⟨-, hc, e⟩ | ⟨c, r, -, -, -, e⟩ | ⟨u, rest, hcons, -⟩ | ⟨rest, hcons, -⟩ := step_cases s
  · cases h.symm.trans e
    exact hc
  · cases h.symm.trans e
    exact (complete_retired c.word r s.popTurn).1.inflight
  · cases hts.symm.trans hcons
  · cases hts.symm.trans hcons

theorem ended_of_inflight {s : State} {c : Command} (h : s.inflight = some c) : s.ended = false := by
  simp [State.ended, h]

/-- A run ends within one step more than the run from the step's next state. -/
theorem runToEnd_ends_of_step {s : State} {k : Nat}
    (h : ∀ u, step s = .next u → ∃ t, runToEnd k u = .next t ∧ t.ended = true) :
    ∃ t, runToEnd (k + 1) s = .next t ∧ t.ended = true := by
  cases he : s.ended with
  | true => exact ⟨s, runToEnd_ended _ he, he⟩
  | false =>
    obtain ⟨u, hstep⟩ := everyStepAnswersANextState s
    rw [runToEnd_succ k he hstep]
    exact h u hstep

/-- Every run ends within as many steps as there are turns and one more. -/
theorem runToEnd_ends (s : State) : ∃ t, runToEnd (s.turns.length + 1) s = .next t ∧ t.ended = true := by
  induction hts : s.turns generalizing s with
  | nil =>
    refine runToEnd_ends_of_step fun u hstep => ⟨u, rfl, (ended_iff u).mpr ⟨?_, step_inflight_of_no_turns hts hstep⟩⟩
    simp [step_turns hstep, hts]
  | cons _ rest ih =>
    exact runToEnd_ends_of_step fun u hstep => ih u (by rw [step_turns hstep, hts, List.tail_cons])

/-- A run that reaches its end is the same however many steps more are allowed. -/
theorem runToEnd_mono {s t : State} {j k : Nat} (hrun : runToEnd j s = .next t) (hend : t.ended = true) (hjk : j ≤ k) :
    runToEnd k s = .next t := by
  induction j generalizing s k with
  | zero =>
    cases hrun
    exact runToEnd_ended k hend
  | succ j ih =>
    cases he : s.ended with
    | true => rw [runToEnd_ended k he, ← hrun, runToEnd_ended _ he]
    | false =>
      obtain ⟨u, hstep⟩ := everyStepAnswersANextState s
      obtain ⟨k, rfl⟩ := Nat.exists_eq_add_one_of_ne_zero (Nat.ne_zero_of_lt hjk)
      rw [runToEnd_succ j he hstep] at hrun
      rw [runToEnd_succ k he hstep]
      exact ih hrun (Nat.le_of_succ_le_succ hjk)

/-- Later turns of the engine or the platform do not undo the end of a run (log 18). -/
theorem ended_append {s : State} {extra : List Turn} (h : s.ended = true) (hx : ∀ t : Transaction, Turn.host t ∉ extra) :
    State.ended { s with turns := s.turns ++ extra } = true := by
  obtain ⟨hts, hc⟩ := (ended_iff s).mp h
  exact (ended_iff _).mpr ⟨fun t ht => (List.mem_append.mp ht).elim (hts t) (hx t), hc⟩

/-- Settles O59, by induction on the turns for the bound (`runToEnd_ends`) and on the steps for the end state's
permanence (`runToEnd_mono`). -/
theorem runEndsAfterTheLastAccess : Obligations.RunEndsAfterTheLastAccess :=
  ⟨ended_iff, fun _ _ => ended_of_inflight, runToEnd_ends, fun _ _ _ _ => runToEnd_mono, fun _ => rfl,
    fun _ _ k h hx => ⟨_, runToEnd_ended k (ended_append h hx), rfl⟩⟩

end Sys2Proof.Machine
end
